-- ==== Sys2Proof/Word.lean ====
section
/-! DEFINITION. The machine's words and the two small operand types: register words, program words,
the STATUS word, register names and combo operands (spec/00_scope.md R5, R7; spec/30_encoding.md R62 to R64). -/

namespace Sys2Proof

/-- A value of register A, B, C or of the pc: `XLEN` = `PCLEN` = 64 bits (R5, R7). The integer reading of
a register is `toInt`; the reading of the pc is `toNat` (R26). -/
abbrev Word := BitVec 64

/-- One word of the program store: `WLEN` = 3 bits, a value 0 to 7 (R5, R31). -/
abbrev ProgWord := BitVec 3

/-- The 8-bit STATUS register (R32); its fields are read in Machine/Flags.lean. -/
abbrev Status := BitVec 8

/-- The register file has exactly these three registers (R24). -/
inductive Reg where
  | a
  | b
  | c
deriving DecidableEq, Repr

/-- A decoded combo operand (R64): an immediate, a register, or the reserved operand 7. -/
inductive ComboOperand where
  /-- Operand words 0 to 3. -/
  | literal (v : ProgWord)
  /-- Operand words 4, 5 and 6. -/
  | register (r : Reg)
  /-- Operand word 7, which decodes and loads normally and faults when executed (R67). -/
  | reserved
deriving DecidableEq, Repr

end Sys2Proof
end

