-- ==== Sys2Proof/Config.lean ====
section
/-! DEFINITION. The implementation parameters that spec/00_scope.md R5 leaves OPEN. They are data that the
host supplies with a run (spec/40_sequencer.md R94, spec/70_reset_and_hazards.md R192), so State holds them
and every statement about a state is a statement for every value of them. -/

namespace Sys2Proof

/-- The four OPEN parameters of R5; fixed for a run (R94). -/
structure Config where
  /-- `OUT_HALTS`: `out` ends the run after its emission (R153). -/
  outHalts : Bool
  /-- `OUT_DEPTH`: capacity of the output accumulator, `none` = unbounded (R154). -/
  outDepth : Option Nat
  /-- `PROG_MAX`: the largest program the store holds (R5). -/
  progMax : Nat
  /-- `TRACE_EN`: one trace record is sent per fetched instruction (R83). -/
  traceEn : Bool
deriving DecidableEq, Repr

/-- The configuration before a host supplies one. `OUT_HALTS = true` is the default of R5; the other three
values are a DESIGN CHOICE (notes/assumptions/2.md): unbounded OUT, the largest store R5 allows, no trace. -/
def Config.initial : Config :=
  { outHalts := true, outDepth := none, progMax := 2 ^ 63, traceEn := false }

end Sys2Proof
end

