-- ==== Sys2Proof/Syntax.lean ====
section
/-! DEFINITION. The instruction set: one constructor per row of spec/opcode_table.json (spec/30_encoding.md
R65). The operand class of each constructor is that of R62. -/

namespace Sys2Proof

/-- The eight instructions (R65), in opcode order. -/
inductive Instr where
  /-- Opcode 0: A := floordiv(A, 2^combo). -/
  | adv (o : ComboOperand)
  /-- Opcode 1: B := B XOR literal. -/
  | bxl (v : ProgWord)
  /-- Opcode 2: B := combo mod 8. -/
  | bst (o : ComboOperand)
  /-- Opcode 3: if A ≠ 0 then pc := literal. -/
  | jnz (v : ProgWord)
  /-- Opcode 4: B := B XOR C; the operand word is kept, and ignored by the meaning (R68). -/
  | bxc (v : ProgWord)
  /-- Opcode 5: append combo mod 8 to OUT, then halt if OUT_HALTS. -/
  | out (o : ComboOperand)
  /-- Opcode 6: B := floordiv(A, 2^combo). -/
  | bdv (o : ComboOperand)
  /-- Opcode 7: C := floordiv(A, 2^combo). -/
  | cdv (o : ComboOperand)
deriving DecidableEq, Repr

end Sys2Proof
end

