-- ==== Sys2Proof/Machine/State.lean ====
section
/-! DEFINITION. The state of the CORE (spec/10_state.md R20 to R38), the ways a step can stop, and the state
after power-on reset (R35, spec/70_reset_and_hazards.md R190). -/

namespace Sys2Proof.Machine

/-- STATE of STATUS[1:0] (R32). Value 3 is reserved and has no constructor. -/
inductive RunState where
  | idle
  | running
  | done
deriving DecidableEq, Repr

/-- The two normal ends of a run (spec/40_sequencer.md R90). -/
inductive HaltReason where
  /-- The bounds check failed (R81). -/
  | haltBounds
  /-- An `out` executed with OUT_HALTS = true (spec/43_output.md R150). -/
  | haltOut
deriving DecidableEq, Repr

/-- The CORE's own faults (spec/60_exceptions.md R160). Raising one is an effect on the state, a next state with
STATUS = DONE, FAULT, CODE; it is not the `Fault` below. -/
inductive CoreFault where
  /-- CODE 1 (R161). -/
  | invalidComboOperand
  /-- CODE 2 (R162). -/
  | negativeShift
  /-- CODE 3 (R164). -/
  | outputOverflow
deriving DecidableEq, Repr

/-- The CORE's own refusals at run start (R166), with what the load check found (R91). They too are effects on
the state: a next state with STATUS = DONE, REFUSED, CODE. -/
inductive LaunchRefusal where
  /-- CODE 1: the word at this index, the lowest such, is outside 0 to 7. -/
  | invalidProgramWord (index : Nat)
  /-- CODE 2: the start value of this register, the first such in the order A, B, C, is outside 64 bits. -/
  | registerOutOfRange (r : Reg)
  /-- CODE 3: N > PROG_MAX. -/
  | programTooLong
deriving DecidableEq, Repr

/-- What the host supplies with one run start (R94, R192): the configuration, the register triple and the
program, the last two as unchecked integers. -/
structure Launch where
  cfg : Config
  a0 : Int
  b0 : Int
  c0 : Int
  program : List Int
deriving DecidableEq, Repr

/-- One record of the trace port: the values before the instruction executes (R83). -/
structure TraceRecord where
  a : Word
  b : Word
  c : Word
  pc : Word
  op : ProgWord
  operand : ProgWord
deriving DecidableEq, Repr

/-- The state. The first eight fields are the eight parts of R20; `cfg` is the configuration of the current run
(R94), `trace` the trace stream it has sent (R83, R94), and `launches` the run starts the host will make
(notes/assumptions/4.md), in order, each made when STATE ≠ RUNNING (R193). -/
structure State where
  /-- x[A] (R21). -/
  a : Word
  /-- x[B] (R22). -/
  b : Word
  /-- x[C] (R23). -/
  c : Word
  /-- The program counter, an unsigned word index (R26). -/
  pc : Word
  /-- The program store P, read-only during a run; N is its length (R31). -/
  prog : List ProgWord
  /-- The output accumulator OUT, entry 0 the first emitted (R30, R154). -/
  out : List ProgWord
  /-- The STATUS register (R32). -/
  status : Status
  /-- The jump-taken flag (R34). -/
  jt : Bool
  /-- The configuration of the run (R5, R94). -/
  cfg : Config
  /-- The trace stream of the run, oldest record first (R83). -/
  trace : List TraceRecord
  /-- Host input: the run starts still to come (R94). -/
  launches : List Launch
deriving DecidableEq, Repr

/-- The ways the MODEL stops. None of them is an end that the spec gives a run: the CORE's own faults are next
states (`CoreFault`). -/
inductive Fault where
  /-- Raised by the step and by a host read of STATUS when STATUS holds a value R32 calls reserved, "never
  produced": the CORE is to be treated as broken (spec/93_implementation_defined.md U15). Safe. -/
  | reservedStatus
  /-- Raised by a read of the program store at an index outside 0 to N-1, which does not exist (R45). The bounds
  check keeps every fetch away from it (R82). Safe. -/
  | outsideProgram
deriving DecidableEq, Repr

/-- What the model gives no meaning to. -/
inductive Refusal where
  /-- An instruction of the table that has no meaning yet; raised by no arm of this model. Safe. -/
  | notModelled (mnemonic : String)
  /-- Raised by a run start whose configuration R5 forbids (OUT_DEPTH = 0 or PROG_MAX > 2^63): a host that breaks
  its duty is outside the spec (R193). Safe. -/
  | configOutsideParameters
  /-- Raised by a host read of A, B, C, pc, OUT or the result while STATE = RUNNING, which R193 does not allow.
  No step raises it. Safe. -/
  | hostAccessWhileRunning
deriving DecidableEq, Repr

/-- The value the model names for A, B, C and pc while the spec gives them none (R35, R36): before the first run start
and after a refusal. DESIGN CHOICE (notes/assumptions/1.md). -/
def noValue : Word := 0

/-- The machine after power-on reset (R35, R190): STATE = IDLE, REASON = NONE, CODE = 0, P and OUT empty, jt = 0.
The spec gives A, B, C and pc no value there; they hold `noValue`. -/
def State.reset : State :=
  { a := noValue, b := noValue, c := noValue, pc := noValue, prog := [], out := [], status := 0, jt := false,
    cfg := Config.initial, trace := [], launches := [] }

end Sys2Proof.Machine
end

