-- ==== Sys2Proof/Machine/Arith.lean ====
section
/-! DEFINITION. The arithmetic primitives of spec/00_scope.md R8 and the shift-division of spec/41_alu.md R110. -/

namespace Sys2Proof.Machine

/-- `floordiv(a, d)`: the greatest integer q with q * d ≤ a, for d > 0 (R8). -/
def floordiv (a d : Int) : Int := Int.fdiv a d

/-- `a mod 8` = a - 8 * floordiv(a, 8), always 0 to 7 (R8). -/
def mod8 (a : Int) : Int := a - 8 * floordiv a 8

/-- `asr(a, s)`: arithmetic right shift (R8). -/
def asr (a : Word) (s : Nat) : Word := a.sshiftRight s

/-- `floordiv(a, 2^k)` for a shift count k ≥ 0, as asr(a, min(k, 63)): 2^k is never computed (R110). -/
def shiftDiv (a k : Word) : Word := asr a (min k.toNat 63)

/-- `k[2:0]`, which equals k mod 8 for every 64-bit k (R8). -/
def low3 (k : Word) : ProgWord := k.extractLsb' 0 3

/-- `zext_64` of a 3-bit word (R9). -/
def zext64 (v : ProgWord) : Word := v.setWidth 64

end Sys2Proof.Machine
end

