-- ==== Sys2Proof/Machine/Flags.lean ====
section
/-! DEFINITION. The STATUS register's fields and values (spec/10_state.md R32, R33) and the jump-taken flag
(R34). The CORE has no arithmetic flags, condition codes or predicates (R29): nothing here is read or written by
the arithmetic of an instruction. -/

namespace Sys2Proof.Machine

/-- STATUS from its three fields: STATE at [1:0], REASON at [4:2], CODE at [7:5] (R32). -/
def statusWord (state : BitVec 2) (reason code : BitVec 3) : Status := code ++ reason ++ state

/-- The STATE field, bits [1:0] (R32). -/
def statusState (w : Status) : BitVec 2 := w.extractLsb' 0 2

/-- The REASON field, bits [4:2] (R32). -/
def statusReason (w : Status) : BitVec 3 := w.extractLsb' 2 3

/-- The CODE field, bits [7:5] (R32). -/
def statusCode (w : Status) : BitVec 3 := w.extractLsb' 5 3

/-- Encoding of STATE (R32). -/
def RunState.code : RunState → BitVec 2
  | .idle => 0
  | .running => 1
  | .done => 2

/-- REASON of a halt (R32). -/
def HaltReason.code : HaltReason → BitVec 3
  | .haltBounds => 1
  | .haltOut => 2

/-- CODE of a fault (R32, spec/60_exceptions.md R160). -/
def CoreFault.code : CoreFault → BitVec 3
  | .invalidComboOperand => 1
  | .negativeShift => 2
  | .outputOverflow => 3

/-- CODE of a refusal (R32, R166). -/
def LaunchRefusal.code : LaunchRefusal → BitVec 3
  | .invalidProgramWord _ => 1
  | .registerOutOfRange _ => 2
  | .programTooLong => 3

/-- STATUS after a run start that passes the load checks (R33). -/
def statusRunning : Status := statusWord RunState.running.code 0 0

/-- STATUS after a halt (R33). -/
def statusHalted (h : HaltReason) : Status := statusWord RunState.done.code h.code 0

/-- STATUS after a fault: REASON = FAULT (R33). -/
def statusFault (f : CoreFault) : Status := statusWord RunState.done.code 3 f.code

/-- STATUS after a refusal: REASON = REFUSED (R33). -/
def statusRefused (r : LaunchRefusal) : Status := statusWord RunState.done.code 4 r.code

/-- The STATE field as a name; `none` for the reserved value 3 (R32). -/
def runStateOf (w : Status) : Option RunState :=
  if statusState w = 0 then some .idle
  else if statusState w = 1 then some .running
  else if statusState w = 2 then some .done
  else none

/-- CODE is one of the values R32 lists for the REASON. -/
def codeListed (reason code : BitVec 3) : Bool :=
  if reason = 3 ∨ reason = 4 then decide (1 ≤ code.toNat ∧ code.toNat ≤ 3) else decide (code = 0)

/-- No field of STATUS holds a value that R32 calls reserved. -/
def statusLegal (w : Status) : Bool :=
  decide (statusState w ≠ 3) && decide ((statusReason w).toNat ≤ 4) && codeListed (statusReason w) (statusCode w)

/-- STATUS is one of the values that the transitions of R33 and the reset of R35 write. -/
def statusProduced (w : Status) : Bool :=
  statusLegal w && (if statusState w = 2 then decide (statusReason w ≠ 0) else decide (statusReason w = 0))

/-- Write STATUS; only the sequencer does (R32). -/
def State.setStatus (w : Status) (s : State) : State := { s with status := w }

/-- Clear the jump-taken flag (R34). -/
def State.clearJt (s : State) : State := { s with jt := false }

/-- Set the jump-taken flag; only a taken `jnz` does (R34). -/
def State.setJt (s : State) : State := { s with jt := true }

end Sys2Proof.Machine
end

