-- ==== Sys2Proof/Machine/Ops.lean ====
section
/-! DEFINITION. The named operations over the registers, the program store, the output accumulator and the run's
end (spec/00_scope.md R9). Every read and write of an instruction goes through one of them. -/

namespace Sys2Proof.Machine

/-- `x[r]` (R9). -/
def State.readReg (r : Reg) (s : State) : Word :=
  match r with
  | .a => s.a
  | .b => s.b
  | .c => s.c

/-- `x[r] <- v` (R9). No register is hard-wired and none aliases another (R24). -/
def State.writeReg (r : Reg) (v : Word) (s : State) : State :=
  match r with
  | .a => { s with a := v }
  | .b => { s with b := v }
  | .c => { s with c := v }

/-- `pc <- target` (R9). -/
def State.setPc (target : Word) (s : State) : State := { s with pc := target }

/-- N, the number of words of the loaded program (R5). -/
abbrev State.progLen (s : State) : Nat := s.prog.length

/-- `MemRead(i, 1)` = `P[i]`, the only memory primitive (R9); an index outside 0 to N-1 does not exist (R45). -/
def State.memRead (i : Nat) (s : State) : Except Fault ProgWord :=
  match s.prog[i]? with
  | some w => .ok w
  | none => .error .outsideProgram

/-- The form of a program store: it is a list of N words, the word at index i in place i, so equal stores are
equal lists; N is at most 2^63, the bound on every `PROG_MAX` (R5, R31; notes/assumptions/3.md). -/
abbrev Memory.wf (m : List ProgWord) : Prop := m.length ≤ 2 ^ 63

/-- `Emit(v)`: append to OUT (R9, R30). -/
def State.emit (v : ProgWord) (s : State) : State := { s with out := s.out ++ [v] }

/-- OUT already holds OUT_DEPTH entries (spec/43_output.md R150, R154); never so when unbounded. -/
def State.outFull (s : State) : Bool :=
  match s.cfg.outDepth with
  | none => false
  | some d => decide (s.out.length = d)

/-- `Halt(reason)`: the run ends and only STATUS changes (R9, spec/10_state.md R33). -/
def State.halt (h : HaltReason) (s : State) : State := s.setStatus (statusHalted h)

/-- `raise F`: taking a fault (R9, spec/60_exceptions.md R160). It is precise: no register, no pc and no OUT entry
is written, and STATUS becomes DONE, FAULT, CODE. There is no handler, vector, saved register or mode (R168), and
no return from it: only a new run start follows (R169), which is `State.runStart` of Machine/Launch.lean. -/
def State.raiseFault (f : CoreFault) (s : State) : State := s.setStatus (statusFault f)

/-- The advance of spec/40_sequencer.md R88: +2 exactly, unless a taken `jnz` has set the pc. -/
def State.advance (s : State) : State := if s.jt then s else s.setPc (s.pc + 2)

/-- The end of an instruction that neither halts nor faults: the advance (R88), after which the jump-taken flag,
which does not survive the step (R34), is cleared. -/
def State.retire (s : State) : State := s.advance.clearJt

end Sys2Proof.Machine
end

