-- ==== Sys2Proof/Machine/Operands.lean ====
section
/-! DEFINITION. The combo-operand resolver (spec/40_sequencer.md R85, R86; spec/30_encoding.md R64), the CORE's only
addressing mode (spec/20_memory.md R41). A literal operand is `zext64` of its word (R63). -/

namespace Sys2Proof.Machine

/-- `combo(v)` (R86): a pure function of the register values at the start of the instruction and the operand;
`none` is the verdict `Invalid`. -/
def combo (o : ComboOperand) (s : State) : Option Word :=
  match o with
  | .literal v => some (zext64 v)
  | .register r => some (s.readReg r)
  | .reserved => none

end Sys2Proof.Machine
end

