-- ==== Sys2Proof/Machine/Alu.lean ====
section
/-! DEFINITION. The integer ALU instructions adv, bxl, bst, bxc, bdv and cdv (spec/41_alu.md). Every source is read
before the destination is written (spec/70_reset_and_hazards.md R196), and every check comes before any write
(spec/40_sequencer.md R87). -/

namespace Sys2Proof.Machine

/-- The shared form of adv, bdv and cdv (R111, R123, R126): dest := floordiv(A, 2^combo). A reserved operand raises
InvalidComboOperand (R161); a negative count raises NegativeShift (R162). -/
def divideInto (dest : Reg) (o : ComboOperand) (s : State) : Host.Outcome State Fault Refusal :=
  match combo o s with
  | none => .next (s.raiseFault .invalidComboOperand)
  | some k =>
    if k.toInt < 0 then .next (s.raiseFault .negativeShift)
    else .next (s.writeReg dest (shiftDiv (s.readReg .a) k)).retire

/-- adv (R111 to R113). -/
def execAdv (o : ComboOperand) (s : State) : Host.Outcome State Fault Refusal := divideInto .a o s

/-- bxl (R114 to R116): B := B XOR zext_64(operand); every operand is legal. -/
def execBxl (v : ProgWord) (s : State) : Host.Outcome State Fault Refusal :=
  .next (s.writeReg .b (s.readReg .b ^^^ zext64 v)).retire

/-- bst (R117 to R119): B := combo mod 8; a negative value is legal. -/
def execBst (o : ComboOperand) (s : State) : Host.Outcome State Fault Refusal :=
  match combo o s with
  | none => .next (s.raiseFault .invalidComboOperand)
  | some k => .next (s.writeReg .b (zext64 (low3 k))).retire

/-- bxc (R120 to R122): B := B XOR C; the operand word was fetched and is ignored (R68). -/
def execBxc (_v : ProgWord) (s : State) : Host.Outcome State Fault Refusal :=
  .next (s.writeReg .b (s.readReg .b ^^^ s.readReg .c)).retire

/-- bdv (R123 to R125). -/
def execBdv (o : ComboOperand) (s : State) : Host.Outcome State Fault Refusal := divideInto .b o s

/-- cdv (R126 to R128). -/
def execCdv (o : ComboOperand) (s : State) : Host.Outcome State Fault Refusal := divideInto .c o s

end Sys2Proof.Machine
end

