-- ==== Sys2Proof/Machine/Control.lean ====
section
/-! DEFINITION. The only control-transfer instruction, jnz (spec/42_control.md R140 to R143). -/

namespace Sys2Proof.Machine

/-- jnz (R140): if A ≠ 0 then pc := zext_64(operand) and the advance is suppressed, else the normal advance. The
target is absolute and unchecked (R141, R143). -/
def execJnz (v : ProgWord) (s : State) : Host.Outcome State Fault Refusal :=
  if s.readReg .a ≠ 0 then .next ((s.setPc (zext64 v)).setJt).retire else .next s.retire

end Sys2Proof.Machine
end

