-- ==== Sys2Proof/Machine/Output.lean ====
section
/-! DEFINITION. The output instruction, out (spec/43_output.md R150 to R154). -/

namespace Sys2Proof.Machine

/-- out (R150): the checks in the order of spec/60_exceptions.md R167, then append combo mod 8 to OUT; with
OUT_HALTS the run ends with the pc still at the `out` (spec/40_sequencer.md R89), else the pc advances. -/
def execOut (o : ComboOperand) (s : State) : Host.Outcome State Fault Refusal :=
  match combo o s with
  | none => .next (s.raiseFault .invalidComboOperand)
  | some k =>
    if s.cfg.outHalts then .next ((s.emit (low3 k)).halt .haltOut)
    else if s.outFull then .next (s.raiseFault .outputOverflow)
    else .next (s.emit (low3 k)).retire

end Sys2Proof.Machine
end

