-- ==== Sys2Proof/Machine/Dispatch.lean ====
section
/-! DEFINITION. The execute stage: one arm per instruction (spec/30_encoding.md R65, spec/40_sequencer.md R99). -/

namespace Sys2Proof.Machine

def exec (i : Instr) (s : State) : Host.Outcome State Fault Refusal :=
  match i with
  | .adv o => Sys2Proof.Machine.execAdv o s
  | .bxl v => Sys2Proof.Machine.execBxl v s
  | .bst o => Sys2Proof.Machine.execBst o s
  | .jnz v => Sys2Proof.Machine.execJnz v s
  | .bxc v => Sys2Proof.Machine.execBxc v s
  | .out o => Sys2Proof.Machine.execOut o s
  | .bdv o => Sys2Proof.Machine.execBdv o s
  | .cdv o => Sys2Proof.Machine.execCdv o s

end Sys2Proof.Machine
end

