-- ==== Sys2Proof/WellFormed.lean ====
section
/-! DEFINITION. Which terms of the syntax stand for an instruction of the encoding. The only check is the
range of a combo immediate, 0 to 3 (spec/30_encoding.md R64); every other operand is a whole 3-bit word. -/

namespace Sys2Proof

/-- A combo immediate is 0 to 3 (R64): operand words 4 to 7 do not spell an immediate. -/
def ComboOperand.WellFormed : ComboOperand → Bool
  | .literal v => decide (v.toNat ≤ 3)
  | .register _ => true
  | .reserved => true

/-- The operand is one that the instruction's operand class (R62) can spell. The reserved operand is well
formed: it decodes and loads normally (R67). -/
def Instr.WellFormed : Instr → Bool
  | .adv o => o.WellFormed
  | .bxl _ => true
  | .bst o => o.WellFormed
  | .jnz _ => true
  | .bxc _ => true
  | .out o => o.WellFormed
  | .bdv o => o.WellFormed
  | .cdv o => o.WellFormed

end Sys2Proof
end

