-- ==== Sys2Proof/Decode.lean ====
section
/-! DEFINITION. The decoder and, after it, the encoder (spec/30_encoding.md R60 to R71). An instruction is two
consecutive program words, the opcode word and then the operand word (R60); the packed value of R61 is
`I = op * 8 + operand`. -/

namespace Sys2Proof

/-- Why a sequence of host integers or program words spells no instruction. -/
inductive DecodeError where
  /-- Fewer than two words are left: a pair is incomplete (R60). -/
  | incompletePair
  /-- A host integer lies outside 0 to 7 and cannot be stored in a program word (R69). -/
  | outsideWord (value : Int)
deriving DecidableEq, Repr

/-- The combo operand that an operand word spells (R64). -/
def ComboOperand.ofWord (v : ProgWord) : ComboOperand :=
  if v = 4 then .register .a
  else if v = 5 then .register .b
  else if v = 6 then .register .c
  else if v = 7 then .reserved
  else .literal v

/-- Decode one pair (R65, R84, R85). Total: every pair is exactly one of the eight instructions (R66). -/
def decodePair (op operand : ProgWord) : Instr :=
  if op = 0 then .adv (ComboOperand.ofWord operand)
  else if op = 1 then .bxl operand
  else if op = 2 then .bst (ComboOperand.ofWord operand)
  else if op = 3 then .jnz operand
  else if op = 4 then .bxc operand
  else if op = 5 then .out (ComboOperand.ofWord operand)
  else if op = 6 then .bdv (ComboOperand.ofWord operand)
  else .cdv (ComboOperand.ofWord operand)

/-- Decode the instruction at the head of a sequence of program words, with the words that follow it (R60). -/
def decode : List ProgWord → Except DecodeError (Instr × List ProgWord)
  | op :: operand :: rest => .ok (decodePair op operand, rest)
  | _ => .error .incompletePair

/-- The program word that holds a host integer, if one does (R69). -/
def ProgWord.ofHost (n : Int) : Except DecodeError ProgWord :=
  if 0 ≤ n ∧ n ≤ 7 then .ok (BitVec.ofInt 3 n) else .error (.outsideWord n)

/-- Program words from host integers, refusing the first that no word can hold (R69). -/
def ProgWord.listOfHost : List Int → Except DecodeError (List ProgWord)
  | [] => .ok []
  | n :: rest =>
    match ProgWord.ofHost n with
    | .error e => .error e
    | .ok w =>
      match ProgWord.listOfHost rest with
      | .error e => .error e
      | .ok ws => .ok (w :: ws)

/-- Decode any sequence of host integers, rejecting by name. -/
def decodeHost (ns : List Int) : Except DecodeError (Instr × List ProgWord) :=
  match ProgWord.listOfHost ns with
  | .ok ws => decode ws
  | .error e => .error e

/-- The opcode word of a packed instruction value, bits [5:3] (R61). -/
def packedOp (w : Nat) : ProgWord := BitVec.ofNat 3 (w / 8)

/-- The operand word of a packed instruction value, bits [2:0] (R61). -/
def packedOperand (w : Nat) : ProgWord := BitVec.ofNat 3 w

/-- The instruction that the decoder reads from a packed value `I = {P[pc], P[pc + 1]}` as
spec/opcode_table.json numbers its bits (R61): bits [5:3] are the opcode word, which is stored first, and bits
[2:0] the operand word. A value of 64 or more is no instruction value. -/
def decodeTableWord (nbits w : Nat) : Option Instr :=
  let i := w % 2 ^ nbits
  if i < 64 then
    match decode [packedOp i, packedOperand i] with
    | .ok (instr, _) => some instr
    | .error _ => none
  else none

/-! ## The encoder -/

/-- The operand word of a combo operand (R64). -/
def ComboOperand.toWord : ComboOperand → ProgWord
  | .literal v => v
  | .register .a => 4
  | .register .b => 5
  | .register .c => 6
  | .reserved => 7

/-- The opcode word (R65). -/
def Instr.opcode : Instr → ProgWord
  | .adv _ => 0
  | .bxl _ => 1
  | .bst _ => 2
  | .jnz _ => 3
  | .bxc _ => 4
  | .out _ => 5
  | .bdv _ => 6
  | .cdv _ => 7

/-- The operand word (R61, R62). -/
def Instr.operand : Instr → ProgWord
  | .adv o => o.toWord
  | .bxl v => v
  | .bst o => o.toWord
  | .jnz v => v
  | .bxc v => v
  | .out o => o.toWord
  | .bdv o => o.toWord
  | .cdv o => o.toWord

/-- The two words of an instruction, the opcode word at the lower index (R42, R60). -/
def encode (i : Instr) : List ProgWord := [i.opcode, i.operand]

/-- The packed value `I` of R61. -/
def Instr.packed (i : Instr) : Nat := i.opcode.toNat * 8 + i.operand.toNat

/-- The instructions of a listing: the pairs at indices 0, 2, 4 and so on; an odd last word belongs to no
pair (R74). -/
def disassemble : List ProgWord → List Instr
  | op :: operand :: rest => decodePair op operand :: disassemble rest
  | _ => []

end Sys2Proof
end

