-- ==== Sys2Proof/Machine/Launch.lean ====
section
/-! DEFINITION. Run start: the load checks, the refusals and the state a run begins from (spec/40_sequencer.md R91,
spec/60_exceptions.md R166, R167; spec/10_state.md R33, R35, R37, R38). It is the CORE's architectural reset
(spec/70_reset_and_hazards.md R191) and the only thing that can follow an ended run (R169). -/

namespace Sys2Proof.Machine

/-- The parameters satisfy R5: `OUT_DEPTH` is at least 1 or unbounded, and `PROG_MAX` is at most 2^63. -/
def configValid (cfg : Config) : Bool :=
  (match cfg.outDepth with
    | none => true
    | some d => decide (1 ≤ d)) && decide (cfg.progMax ≤ 2 ^ 63)

/-- A register start value is in the 64-bit signed range (spec/10_state.md R25). -/
def inRange64 (n : Int) : Bool := decide (-(2 ^ 63) ≤ n ∧ n ≤ 2 ^ 63 - 1)

/-- A host integer is a program word, 0 to 7 (R69). -/
def inWord (n : Int) : Bool := decide (0 ≤ n ∧ n ≤ 7)

/-- The lowest index, counted from `start`, of an integer that is no program word (R91, R167). -/
def firstBadWord (start : Nat) : List Int → Option Nat
  | [] => none
  | n :: rest => if inWord n then firstBadWord (start + 1) rest else some start

/-- The register checks, in the order A, B, C (R91, R167). -/
def checkRegisters (l : Launch) : Option LaunchRefusal :=
  if inRange64 l.a0 = false then some (.registerOutOfRange .a)
  else if inRange64 l.b0 = false then some (.registerOutOfRange .b)
  else if inRange64 l.c0 = false then some (.registerOutOfRange .c)
  else none

/-- The load checks of R91, in order, stopping at the first failure; `none` is a pass. -/
def launchCheck (l : Launch) : Option LaunchRefusal :=
  if l.cfg.progMax < l.program.length then some .programTooLong
  else
    match firstBadWord 0 l.program with
    | some i => some (.invalidProgramWord i)
    | none => checkRegisters l

/-- The "at run start" column of R35, which replaces every part of the state (R38). The trace stream is the new
run's (notes/assumptions/5.md). -/
def State.loadLaunch (l : Launch) (s : State) : State :=
  { s with
    a := BitVec.ofInt 64 l.a0
    b := BitVec.ofInt 64 l.b0
    c := BitVec.ofInt 64 l.c0
    pc := 0
    prog := l.program.map (BitVec.ofInt 3)
    out := []
    status := statusRunning
    jt := false
    cfg := l.cfg
    trace := [] }

/-- A refused run start (R33, R37, R166): STATUS, an empty OUT, and A, B, C and pc, to which the
spec gives no value, hold `noValue`. P and the
configuration keep what they were, since R91 refuses before it writes (notes/assumptions/6.md). -/
def State.refuseLaunch (r : LaunchRefusal) (s : State) : State :=
  { s with
    a := noValue
    b := noValue
    c := noValue
    pc := noValue
    out := []
    status := statusRefused r
    jt := false
    trace := [] }

/-- A run start (R91). -/
def State.runStart (l : Launch) (s : State) : State :=
  match launchCheck l with
  | some r => s.refuseLaunch r
  | none => s.loadLaunch l

/-- The host's turn, with STATE = IDLE or DONE: the next run start if the host makes one; else the CORE waits and
keeps its state (spec/60_exceptions.md R176, spec/10_state.md R37). -/
def hostTurn (s : State) : Host.Outcome State Fault Refusal :=
  match s.launches with
  | [] => .next s
  | l :: rest =>
    if configValid l.cfg then .next (({ s with launches := rest } : State).runStart l)
    else .refused .configOutsideParameters

/-- The host adds a run start to those it will make (R94). -/
def State.withLaunch (l : Launch) (s : State) : State := { s with launches := s.launches ++ [l] }

end Sys2Proof.Machine
end

