-- ==== Sys2Proof/Machine/Sequencer.lean ====
section
/-! DEFINITION. The fetch/execute/advance cycle around an instruction's meaning (spec/40_sequencer.md R80 to R83,
R99). Machine/Step.lean applies `cycle` to `exec`. -/

namespace Sys2Proof.Machine

/-- The bounds check `pc + 1 < N`, on mathematical integers (R7, R81). -/
def State.inBounds (s : State) : Bool := decide (s.pc.toNat + 1 < s.progLen)

/-- The fetch: `op := P[pc]`, `operand := P[pc + 1]` (R82). -/
def State.fetch (s : State) : Except Fault (ProgWord × ProgWord) :=
  match s.memRead s.pc.toNat, s.memRead (s.pc.toNat + 1) with
  | .ok op, .ok operand => .ok (op, operand)
  | .error f, _ => .error f
  | _, .error f => .error f

/-- The trace record of a fetched instruction (R83). -/
def State.traceRecord (op operand : ProgWord) (s : State) : TraceRecord :=
  { a := s.a, b := s.b, c := s.c, pc := s.pc, op := op, operand := operand }

/-- The trace stage: with TRACE_EN one record is sent, and no architectural state changes (R83). -/
def State.traced (op operand : ProgWord) (s : State) : State :=
  if s.cfg.traceEn then { s with trace := s.trace ++ [s.traceRecord op operand] } else s

/-- One step of a running CORE, STATE = RUNNING (R99), with `ex` as its execute stage. -/
def runningStep (ex : Instr → State → Host.Outcome State Fault Refusal) (s : State) :
    Host.Outcome State Fault Refusal :=
  let s0 := s.clearJt
  if s0.inBounds then
    match s0.fetch with
    | .ok (op, operand) => ex (decodePair op operand) (s0.traced op operand)
    | .error f => .fault f
  else .next (s0.halt .haltBounds)

/-- One step of the machine: by STATE, an instruction or the host's turn. A reserved STATUS value, which is never
produced, is a broken CORE (spec/93_implementation_defined.md U15). -/
def cycle (ex : Instr → State → Host.Outcome State Fault Refusal) (s : State) :
    Host.Outcome State Fault Refusal :=
  if statusLegal s.status then
    match runStateOf s.status with
    | some .running => runningStep ex s
    | some .idle => hostTurn s
    | some .done => hostTurn s
    | none => .fault .reservedStatus
  else .fault .reservedStatus

/-- Place one pair where the next step fetches: over the pair at pc in a running CORE whose pc is in bounds;
else as a loaded two-word program with pc = 0 and STATE = RUNNING, standing for the host's load (R91). -/
def State.placePair (op operand : ProgWord) (s : State) : State :=
  if s.status = statusRunning ∧ s.inBounds = true then
    { s with prog := (s.prog.set s.pc.toNat op).set (s.pc.toNat + 1) operand }
  else { s with prog := [op, operand], pc := 0, status := statusRunning }

end Sys2Proof.Machine
end

