-- ==== Sys2Proof/Machine/Step.lean ====
section
/-! DEFINITION. The step of the machine (spec/40_sequencer.md R99), and the placing of one instruction where the
next step fetches it. -/

namespace Sys2Proof.Machine

/-- One step; at most one instruction executes, as one indivisible transition (R92). -/
def step (s : State) : Host.Outcome State Fault Refusal := cycle exec s

/-- `s` with the instruction of packed value `w` (spec/30_encoding.md R61) where the next step fetches. -/
def State.withFetchWord (s : State) (nbits w : Nat) : State :=
  s.placePair (packedOp (w % 2 ^ nbits)) (packedOperand (w % 2 ^ nbits))

end Sys2Proof.Machine
end

