-- ==== Sys2Proof/Machine/Assembler.lean ====
section
/-! DEFINITION. The assembly notation of spec/30_encoding.md R72 to R74, over character lists: one instruction a line,
`<mnemonic> <digit>`, with `;` comments, or a comma-separated word list. It is notation only (D18): no rule of the
machine reads it, and there are no pseudo-instructions (R73). -/

namespace Sys2Proof.Machine

/-- The mnemonic of each opcode word (R65, R72), lower case. -/
def mnemonicText (op : ProgWord) : List Char :=
  if op = 0 then ['a', 'd', 'v']
  else if op = 1 then ['b', 'x', 'l']
  else if op = 2 then ['b', 's', 't']
  else if op = 3 then ['j', 'n', 'z']
  else if op = 4 then ['b', 'x', 'c']
  else if op = 5 then ['o', 'u', 't']
  else if op = 6 then ['b', 'd', 'v']
  else ['c', 'd', 'v']

/-- The decimal digit of an operand word (R72). -/
def digitText (v : ProgWord) : Char := Char.ofNat ('0'.toNat + v.toNat)

/-- The opcode word of a mnemonic, searched in opcode order. -/
def mnemonicWord (t : List Char) : Option ProgWord :=
  ([0, 1, 2, 3, 4, 5, 6, 7] : List ProgWord).find? (fun op => mnemonicText op == t)

/-- The operand word of a digit 0 to 7. -/
def digitWord (t : List Char) : Option ProgWord :=
  ([0, 1, 2, 3, 4, 5, 6, 7] : List ProgWord).find? (fun v => [digitText v] == t)

/-- Split at a separator character, dropping empty pieces; `acc` is the piece being read, reversed. -/
def splitAt (sep : Char) (acc : List Char) : List Char → List (List Char)
  | [] => if acc = [] then [] else [acc.reverse]
  | ch :: rest =>
    if ch = sep then
      if acc = [] then splitAt sep [] rest else acc.reverse :: splitAt sep [] rest
    else splitAt sep (ch :: acc) rest

/-- Assemble one line: two words, or no word for a blank line or a comment; refused (`none`) if it is no line of R72.
DESIGN CHOICE (notes/assumptions/14.md): spaces before, between and after the two parts are skipped. -/
def assembleLine (line : List Char) : Option (List ProgWord) :=
  match splitAt ' ' [] (line.takeWhile (fun ch => ch != ';')) with
  | [] => some []
  | [m, d] =>
    match mnemonicWord m, digitWord d with
    | some op, some v => some [op, v]
    | _, _ => none
  | _ => none

/-- Assemble the lines of a program, line k at index 2k (R72). DESIGN CHOICE (notes/assumptions/14.md): a line with no
instruction is not counted. -/
def assemble : List (List Char) → Option (List ProgWord)
  | [] => some []
  | line :: rest =>
    match assembleLine line, assemble rest with
    | some ws, some more => some (ws ++ more)
    | _, _ => none

/-- The line of one instruction (R72). -/
def lineText (i : Instr) : List Char := mnemonicText i.opcode ++ [' ', digitText i.operand]

/-- The value of a digit 0 to 9. -/
def decimalDigit (ch : Char) : Option Nat :=
  if '0'.toNat ≤ ch.toNat ∧ ch.toNat ≤ '9'.toNat then some (ch.toNat - '0'.toNat) else none

/-- A decimal number, `acc` the digits read so far. -/
def decimal (acc : Nat) : List Char → Option Nat
  | [] => some acc
  | ch :: rest =>
    match decimalDigit ch with
    | some d => decimal (acc * 10 + d) rest
    | none => none

/-- A host integer: decimal digits with an optional minus sign. DESIGN CHOICE (notes/assumptions/14.md): R72 shows
single digits only, and the load check must see the integers it refuses (R69). -/
def hostInteger : List Char → Option Int
  | [] => none
  | ['-'] => none
  | '-' :: rest => (decimal 0 rest).map (fun n => -(n : Int))
  | t => (decimal 0 t).map (fun n => (n : Int))

/-- The items between the commas of a word list, the empty ones too; `acc` is the item being read, reversed. -/
def listItems (acc : List Char) : List Char → List (List Char)
  | [] => [acc.reverse]
  | ch :: rest => if ch = ',' then acc.reverse :: listItems [] rest else listItems (ch :: acc) rest

/-- Without the spaces at either end. -/
def trimSpaces (t : List Char) : List Char :=
  ((t.dropWhile (fun ch => ch == ' ')).reverse.dropWhile (fun ch => ch == ' ')).reverse

/-- The comma-separated word list of R72, as the unchecked integers a host hands over (R75, R91). DESIGN CHOICE
(notes/assumptions/14.md), R72 being silent: spaces around an item are skipped, a space inside an integer and an empty
item refuse the list (`none`), and a text of spaces alone is the empty program. -/
def wordList (t : List Char) : Option (List Int) :=
  if trimSpaces t = [] then some [] else (listItems [] t).mapM (fun item => hostInteger (trimSpaces item))

end Sys2Proof.Machine
end

