-- ==== Sys2Proof/Machine/HostPort.lean ====
section
/-! DEFINITION. What the host may read, and when (spec/40_sequencer.md R94, R95; spec/10_state.md R36, R37;
spec/60_exceptions.md R163; spec/70_reset_and_hazards.md R193). A read changes nothing. The host writes nothing but
run starts (Machine/Launch.lean): no operation here writes P, a register, the pc, OUT or STATUS. -/

namespace Sys2Proof.Machine

/-- The spec gives A, B, C and pc no value: before the first run start and after a refusal (R36, R37). -/
def holdsNoValue (s : State) : Bool :=
  decide (statusState s.status = 0) || decide (statusReason s.status = 4)

/-- A host read that R193 does not allow while STATE = RUNNING. -/
def hostReadAtRest {α : Type} (answer : Host.Outcome α Fault Refusal) (s : State) : Host.Outcome α Fault Refusal :=
  if statusLegal s.status then
    if runStateOf s.status = some .running then .refused .hostAccessWhileRunning else answer
  else .fault .reservedStatus

/-- The host reads STATUS, at any time; a reserved value means a broken CORE (spec/93_implementation_defined.md U15). -/
def hostReadStatus (s : State) : Host.Outcome Status Fault Refusal :=
  if statusLegal s.status then .next s.status else .fault .reservedStatus

/-- What a host read of A, B, C or pc answers. -/
structure RegisterReading where
  /-- The word the register holds. -/
  value : Word
  /-- The word is a final value of a run (R37). If not, the spec gives the register no value, and a read of it is R36's
  fault, which this verdict records: `value` is then the value the model names (`noValue`, notes/assumptions/1.md). -/
  held : Bool
deriving DecidableEq, Repr

/-- The reading of a word that a register holds. -/
def registerReading (value : Word) (s : State) : RegisterReading := { value := value, held := !holdsNoValue s }

/-- The host reads a register (R37). The read answers in every state at rest; R36's fault, on a register that the spec
gives no value, is its verdict. No instruction reads through this operation. -/
def hostReadReg (r : Reg) (s : State) : Host.Outcome RegisterReading Fault Refusal :=
  hostReadAtRest (.next (registerReading (s.readReg r) s)) s

/-- The host reads the pc (R37), as `hostReadReg`. -/
def hostReadPc (s : State) : Host.Outcome RegisterReading Fault Refusal :=
  hostReadAtRest (.next (registerReading s.pc s)) s

/-- The host reads the frozen OUT (R37). -/
def hostReadOut (s : State) : Host.Outcome (List ProgWord) Fault Refusal := hostReadAtRest (.next s.out) s

/-- The host reads a word of P, at any time (R193). -/
def hostReadProg (i : Nat) (s : State) : Host.Outcome ProgWord Fault Refusal :=
  match s.memRead i with
  | .ok w => .next w
  | .error f => .fault f

/-- The trace stream sent so far; it is no state of the CORE and the host has it as it is sent (R83, R94). -/
def hostTrace (s : State) : List TraceRecord := s.trace

/-- What the host is owed at the end of a run (R95). -/
inductive HostResult where
  /-- After HALT_BOUNDS or HALT_OUT: OUT. -/
  | output (values : List ProgWord)
  /-- After FAULT: the code only; OUT is not part of the result. -/
  | faultCode (code : BitVec 3)
  /-- After REFUSED: the code only. -/
  | refusalCode (code : BitVec 3)
deriving DecidableEq, Repr

/-- The result owed to the host (R95); `none` while no run has ended (R194). -/
def hostResult (s : State) : Option HostResult :=
  if statusState s.status = 2 then
    if statusReason s.status = 1 ∨ statusReason s.status = 2 then some (.output s.out)
    else if statusReason s.status = 3 then some (.faultCode (statusCode s.status))
    else if statusReason s.status = 4 then some (.refusalCode (statusCode s.status))
    else none
  else none

/-- The information of a fault: (pc, op, operand), plus the resolved shift count k for NegativeShift (R163). -/
structure FaultInfo where
  pc : Word
  op : ProgWord
  operand : ProgWord
  k : Option Word
deriving DecidableEq, Repr

/-- The fault's information read from the frozen state, since no extra register holds it (R163). -/
def faultInfo (s : State) : Option FaultInfo :=
  if statusState s.status = 2 ∧ statusReason s.status = 3 then
    match s.fetch with
    | .ok (op, operand) =>
      some { pc := s.pc, op := op, operand := operand,
             k := if statusCode s.status = 2 then combo (ComboOperand.ofWord operand) s else none }
    | .error _ => none
  else none

end Sys2Proof.Machine
end

