-- ==== Sys2Proof/Machine/Reference.lean ====
section
/-! DEFINITION. The interpreter that the spec quotes from its source, over unbounded integers: fetch at the pointer,
execute by opcode number, advance by 2 unless the jump set the pointer (spec/40_sequencer.md R80; the opcode map of
spec/30_encoding.md R65; spec/00_scope.md R6, R8). It is what the 64-bit CORE is compared with; no step uses it. -/

namespace Sys2Proof.Machine

/-- The source's machine: three unbounded integers, an index and a growing list (R6, R30). -/
structure RefState where
  a : Int
  b : Int
  c : Int
  pc : Nat
  out : List Nat
deriving DecidableEq, Repr

/-- One turn of the source's loop. -/
inductive RefTurn where
  /-- The loop goes on. -/
  | goesOn (r : RefState)
  /-- The loop ends normally. -/
  | ends (h : HaltReason) (r : RefState)
  /-- The source gives no meaning: combo operand 7, or a negative shift count (R161, R162). -/
  | noMeaning
deriving DecidableEq, Repr

/-- The value of a combo operand, by its number (R11, R86). -/
def refCombo (v : Nat) (r : RefState) : Option Int :=
  if v ≤ 3 then some v
  else if v = 4 then some r.a
  else if v = 5 then some r.b
  else if v = 6 then some r.c
  else none

/-- floor(A / 2^combo), where the exponent is not negative (R65). -/
def refDivide (v : Nat) (r : RefState) : Option Int :=
  match refCombo v r with
  | some k => if 0 ≤ k then some (floordiv r.a (2 ^ k.toNat)) else none
  | none => none

/-- Go on with the pointer advanced by 2. -/
def refNext (r : RefState) : RefTurn := .goesOn { r with pc := r.pc + 2 }

/-- The effect of one opcode, by its number (R65); XOR is on infinitely sign-extended integers (R6). -/
def refExec (outHalts : Bool) (op v : Nat) (r : RefState) : RefTurn :=
  match op with
  | 0 => match refDivide v r with
    | some q => refNext { r with a := q }
    | none => .noMeaning
  | 1 => refNext { r with b := Int.xor r.b v }
  | 2 => match refCombo v r with
    | some k => refNext { r with b := mod8 k }
    | none => .noMeaning
  | 3 => if r.a = 0 then refNext r else .goesOn { r with pc := v }
  | 4 => refNext { r with b := Int.xor r.b r.c }
  | 5 => match refCombo v r with
    | some k =>
      let r' := { r with out := r.out ++ [(mod8 k).toNat] }
      if outHalts then .ends .haltOut r' else refNext r'
    | none => .noMeaning
  | 6 => match refDivide v r with
    | some q => refNext { r with b := q }
    | none => .noMeaning
  | 7 => match refDivide v r with
    | some q => refNext { r with c := q }
    | none => .noMeaning
  | _ => .noMeaning

/-- One turn over the program `p` (R80, R81). -/
def refTurn (outHalts : Bool) (p : List Nat) (r : RefState) : RefTurn :=
  match p[r.pc]?, p[r.pc + 1]? with
  | some op, some v => refExec outHalts op v r
  | _, _ => .ends .haltBounds r

/-- What the source's machine sees of a state of the CORE. -/
def State.toRef (s : State) : RefState :=
  { a := s.a.toInt, b := s.b.toInt, c := s.c.toInt, pc := s.pc.toNat, out := s.out.map BitVec.toNat }

end Sys2Proof.Machine
end

