-- ==== Sys2Proof/Machine/Run.lean ====
section
/-! DEFINITION. A run under fuel (spec/40_sequencer.md R80, R90, R96): fuel running out is "no end reached", never a
halt. -/

namespace Sys2Proof.Machine

/-- STATE = DONE: the run has ended (spec/70_reset_and_hazards.md R194). -/
def State.isDone (s : State) : Bool := decide (runStateOf s.status = some .done)

/-- How a run looks after some fuel. -/
inductive RunEnd where
  /-- STATE = DONE in this state. -/
  | ended (s : State)
  /-- The fuel ran out in this state: no end was reached (R96). -/
  | noEnd (s : State)
  /-- The model stopped. -/
  | faulted (f : Fault)
  /-- The model stopped. -/
  | refused (r : Refusal)
deriving DecidableEq, Repr

/-- Steps until STATE = DONE, at most `fuel` of them. -/
def runFuel : Nat → State → RunEnd
  | 0, s => if s.isDone then .ended s else .noEnd s
  | fuel + 1, s =>
    if s.isDone then .ended s
    else
      match step s with
      | .next t => runFuel fuel t
      | .fault f => .faulted f
      | .refused r => .refused r

/-- The transaction of R94: from power-on reset, one run start, then at most `fuel` steps. -/
def runLaunch (l : Launch) (fuel : Nat) : RunEnd := runFuel (fuel + 1) (State.reset.withLaunch l)

end Sys2Proof.Machine
end

