-- ==== Sys2Proof/Safety.lean ====
section
/-! DEFINITION. The terms claims are stated in: a good end, the launch premise, the fault conditions as the spec's
tables give them, and the invariant of the machine. -/

namespace Sys2Proof.Machine

/-- A good final state: DONE with REASON HALT_BOUNDS or HALT_OUT (spec/70_reset_and_hazards.md R194). -/
abbrev GoodEnd (s : State) : Prop := statusState s.status = 2 ∧ (statusReason s.status = 1 ∨ statusReason s.status = 2)

/-- `ValidLaunch(cfg, A0, B0, C0, P)` (R199). That `PROG_MAX` is at most 2^63 is spec/00_scope.md R5's, not the
premise's: `configValid` says it. -/
abbrev ValidLaunch (l : Launch) : Prop :=
  l.program.length ≤ l.cfg.progMax ∧ (∀ n ∈ l.program, 0 ≤ n ∧ n ≤ 7) ∧
  (-(2 ^ 63) ≤ l.a0 ∧ l.a0 ≤ 2 ^ 63 - 1) ∧ (-(2 ^ 63) ≤ l.b0 ∧ l.b0 ≤ 2 ^ 63 - 1) ∧
  (-(2 ^ 63) ≤ l.c0 ∧ l.c0 ≤ 2 ^ 63 - 1) ∧ l.cfg.outDepth ≠ some 0

/-- The step will run an instruction, or end the run: STATE = RUNNING and no reserved field in STATUS. -/
abbrev Running (s : State) : Prop := statusState s.status = 1 ∧ statusLegal s.status = true

/-- Between runs: STATE = IDLE or DONE and no reserved field in STATUS (spec/60_exceptions.md R176). -/
abbrev AtRest (s : State) : Prop := (statusState s.status = 0 ∨ statusState s.status = 2) ∧ statusLegal s.status = true

/-- The condition of InvalidComboOperand (R161) on an operand. -/
def operandInvalid (o : ComboOperand) : Bool := decide (o = .reserved)

/-- The condition of NegativeShift (R162) on an operand: it names a register that holds a negative value. -/
def countNegative (o : ComboOperand) (s : State) : Bool :=
  match o with
  | .register r => decide ((s.readReg r).toInt < 0)
  | _ => false

/-- The fault an instruction raises, by the table of R160 and the order of R167. -/
def faultRaised (i : Instr) (s : State) : Option CoreFault :=
  match i with
  | .adv o | .bdv o | .cdv o =>
    if operandInvalid o then some .invalidComboOperand
    else if countNegative o s then some .negativeShift
    else none
  | .bst o => if operandInvalid o then some .invalidComboOperand else none
  | .out o =>
    if operandInvalid o then some .invalidComboOperand
    else if s.cfg.outHalts = false ∧ s.cfg.outDepth = some s.out.length then some .outputOverflow
    else none
  | .bxl _ | .jnz _ | .bxc _ => none

/-- The pair at pc, decoded; `none` where it is not inside the program. -/
def instrAtPc (s : State) : Option Instr :=
  match s.prog[s.pc.toNat]?, s.prog[s.pc.toNat + 1]? with
  | some op, some v => some (decodePair op v)
  | _, _ => none

/-- The one register an instruction writes, by the table of spec/10_state.md R24. -/
def destination (i : Instr) : Option Reg :=
  match i with
  | .adv _ => some .a
  | .bxl _ | .bst _ | .bxc _ | .bdv _ => some .b
  | .cdv _ => some .c
  | .jnz _ | .out _ => none

/-- A configuration with TRACE_EN off. -/
def quietConfig (cfg : Config) : Config := { cfg with traceEn := false }

/-- A state with TRACE_EN off, now and in every run start to come, and no trace stream: the architectural state. -/
def State.quiet (s : State) : State :=
  { s with
    cfg := quietConfig s.cfg
    trace := []
    launches := s.launches.map (fun l => { l with cfg := quietConfig l.cfg }) }

/-- An outcome with its next state made quiet. -/
def quietOutcome (o : Host.Outcome State Fault Refusal) : Host.Outcome State Fault Refusal :=
  match o with
  | .next t => .next t.quiet
  | .fault f => .fault f
  | .refused r => .refused r

/-! ## The invariant -/

/-- OUT never holds more than OUT_DEPTH entries (spec/43_output.md R154). -/
abbrev OutWithinDepth (s : State) : Prop := s.cfg.outDepth.all (fun d => decide (s.out.length ≤ d)) = true

/-- With OUT_HALTS, OUT is empty until HALT_OUT and then holds exactly one entry (spec/40_sequencer.md R90); HALT_OUT
is reached with OUT_HALTS only. -/
abbrev OutByStatus (s : State) : Prop :=
  if statusReason s.status = 2 then s.cfg.outHalts = true ∧ s.out.length = 1
  else s.cfg.outHalts = true → s.out = []

/-- The pair at pc is an `out`. -/
def atOut (s : State) : Bool :=
  match instrAtPc s with
  | some (.out _) => true
  | _ => false

/-- What REASON says of the frozen state: the bounds test fails after HALT_BOUNDS (R81), the pc is at an `out` after
HALT_OUT (R89), the pair at pc raises the fault of CODE after FAULT (R163), and OUT is empty after REFUSED
(spec/10_state.md R37). -/
abbrev ReasonRecorded (s : State) : Prop :=
  (statusReason s.status = 1 → s.progLen ≤ s.pc.toNat + 1) ∧
  (statusReason s.status = 2 → atOut s = true) ∧
  (statusReason s.status = 3 →
    ((instrAtPc s).bind (fun i => faultRaised i s)).map CoreFault.code = some (statusCode s.status)) ∧
  (statusReason s.status = 4 → s.out = [])

/-- The invariant of the machine: STATUS holds a value R33 writes; the configuration is one R5 allows; N ≤ PROG_MAX;
pc ≤ max(N, 7) (spec/10_state.md R28); the jump-taken flag is clear between steps (R34); OUT and the frozen state are as
above; before the first run start P and OUT are empty (R35); and nothing was traced without TRACE_EN (R83). -/
abbrev State.Inv (s : State) : Prop :=
  statusProduced s.status = true ∧ configValid s.cfg = true ∧ s.progLen ≤ s.cfg.progMax ∧
  s.pc.toNat ≤ max s.progLen 7 ∧ s.jt = false ∧ OutWithinDepth s ∧ OutByStatus s ∧ ReasonRecorded s ∧
  (statusState s.status = 0 → s.prog = [] ∧ s.out = []) ∧ (s.cfg.traceEn = false → s.trace = [])

end Sys2Proof.Machine
end

