-- ==== Sys2Proof/Certificates/Slice0/Obligations.lean ====
section
/-! DEFINITION. The statements for the provers, each formalising the rules of spec/ that its docstring names. -/

open Sys2Proof Sys2Proof.Machine

/-! ## Encoding -/

/-- Decoding an encoded well-formed instruction gives it back, in a word sequence with anything after it and as a packed
value; and encoding a decoded pair gives the pair back, so no two pairs are one instruction term and no bit is dropped
(spec/30_encoding.md R60, R61). -/
def Obligations.DecodeInvertsEncode : Prop :=
  (∀ (i : Instr) (rest : List ProgWord), i.WellFormed = true →
    decode (encode i ++ rest) = .ok (i, rest) ∧ decodeTableWord 8 i.packed = some i) ∧
  (∀ op v : ProgWord, encode (decodePair op v) = [op, v] ∧ (decodePair op v).WellFormed = true ∧
    (decodePair op v).packed = op.toNat * 8 + v.toNat)

/-- The decoder is total on pairs, reads exactly two words and no further, and rejects only an incomplete pair and a
host integer outside 0 to 7 (R60, R66, R69). -/
def Obligations.DecoderRejectsOnlyByName : Prop :=
  (∀ (op v : ProgWord) (rest : List ProgWord), decode (op :: v :: rest) = .ok (decodePair op v, rest)) ∧
  (∀ ws : List ProgWord, ws.length < 2 → decode ws = .error .incompletePair) ∧
  (∀ ns : List Int, (∃ n, decodeHost ns = .error (.outsideWord n)) ↔ ∃ n ∈ ns, ¬ (0 ≤ n ∧ n ≤ 7))

/-- Words written out from the encodings of spec/30_encoding.md R65 and the packed values of spec/95_test_vectors.md. -/
def Obligations.SpecWordsDecode : Prop :=
  decodePair 0 1 = .adv (.literal 1) ∧ decodePair 1 7 = .bxl 7 ∧ decodePair 2 6 = .bst (.register .c) ∧
  decodePair 3 0 = .jnz 0 ∧ decodePair 4 7 = .bxc 7 ∧ decodePair 5 4 = .out (.register .a) ∧
  decodePair 6 5 = .bdv (.register .b) ∧ decodePair 7 6 = .cdv (.register .c) ∧
  decodeTableWord 8 0b000001 = some (.adv (.literal 1)) ∧ decodeTableWord 8 0b101100 = some (.out (.register .a)) ∧
  decodeTableWord 8 0b011000 = some (.jnz 0) ∧ decodeTableWord 8 0b110111 = some (.bdv .reserved)

/-- The five reserved values raise InvalidComboOperand and write nothing but STATUS, in every state; no other of the 64
pairs ever raises it (R67). -/
def Obligations.ReservedPairCensus : Prop :=
  ∀ op v : ProgWord,
    if (op, v) ∈ [((0 : ProgWord), (7 : ProgWord)), (2, 7), (5, 7), (6, 7), (7, 7)] then
      ∀ s : State, exec (decodePair op v) s = .next { s with status := statusWord 2 3 1 }
    else ∀ s t : State, statusReason s.status ≠ 3 → exec (decodePair op v) s = .next t →
      t.status ≠ statusWord 2 3 1

/-- The combo-operand resolver, by operand word (spec/40_sequencer.md R86, R64). -/
def Obligations.ComboOperandTable : Prop :=
  ∀ (v : ProgWord) (s : State),
    combo (ComboOperand.ofWord v) s =
      if v.toNat ≤ 3 then some (BitVec.ofNat 64 v.toNat)
      else if v.toNat = 4 then some s.a
      else if v.toNat = 5 then some s.b
      else if v.toNat = 6 then some s.c
      else none

/-! ## Arithmetic -/

/-- The primitives of R8: floor division is the greatest quotient, the remainder mod 8 is the low three bits and lies in
0 to 7, XOR is bitwise, and asr fills with copies of bit 63. -/
def Obligations.ArithmeticPrimitives : Prop :=
  (∀ a d q : Int, 0 < d → (q ≤ floordiv a d ↔ q * d ≤ a)) ∧
  (∀ k : Word, ((low3 k).toNat : Int) = mod8 k.toInt ∧ mod8 k.toInt = k.toInt - 8 * floordiv k.toInt 8 ∧
    0 ≤ mod8 k.toInt ∧ mod8 k.toInt ≤ 7) ∧
  (∀ (a b : Word) (j : Nat), (a ^^^ b).getLsbD j = (a.getLsbD j ^^ b.getLsbD j)) ∧
  (∀ (a : Word) (n j : Nat), n ≤ 63 → j < 64 →
    (asr a n).getLsbD j = if j + n < 64 then a.getLsbD (j + n) else a.getLsbD 63)

/-- Floor division by a power of two is the arithmetic shift by min(k, 63), for every k; for k ≥ 63 it is 0 or -1 by the
sign, which is asr(a, 63). The ALU's shift-division by a register or literal count computes it (R110). -/
def Obligations.ShiftIsFloorDivision : Prop :=
  (∀ (a : Word) (k : Nat), floordiv a.toInt (2 ^ k) = (asr a (min k 63)).toInt ∧
    (63 ≤ k → asr a (min k 63) = asr a 63 ∧ (asr a 63).toInt = if 0 ≤ a.toInt then 0 else -1)) ∧
  (∀ a k : Word, 0 ≤ k.toInt → shiftDiv a k = asr a (min k.toNat 63))

/-! ## What each instruction does -/

/-- adv (R111, R112): its encoding; InvalidComboOperand on operand 7; NegativeShift on a negative count; else
A := floordiv(A, 2^k) and the advance, and nothing else changes. -/
def Obligations.AdvResult : Prop :=
  ∀ (v : ProgWord) (s : State), decodePair 0 v = .adv (ComboOperand.ofWord v) ∧
    (v = 7 → exec (decodePair 0 v) s = .next { s with status := statusWord 2 3 1 }) ∧
    (∀ k, combo (ComboOperand.ofWord v) s = some k → k.toInt < 0 →
      exec (decodePair 0 v) s = .next { s with status := statusWord 2 3 2 }) ∧
    (∀ k, combo (ComboOperand.ofWord v) s = some k → 0 ≤ k.toInt → s.jt = false →
      ∃ q : Word, q.toInt = floordiv s.a.toInt (2 ^ k.toNat) ∧ q = asr s.a (min k.toNat 63) ∧
        exec (decodePair 0 v) s = .next { s with a := q, pc := s.pc + 2 })

/-- bdv (R123, R124): as adv, with B the destination. -/
def Obligations.BdvResult : Prop :=
  ∀ (v : ProgWord) (s : State), decodePair 6 v = .bdv (ComboOperand.ofWord v) ∧
    (v = 7 → exec (decodePair 6 v) s = .next { s with status := statusWord 2 3 1 }) ∧
    (∀ k, combo (ComboOperand.ofWord v) s = some k → k.toInt < 0 →
      exec (decodePair 6 v) s = .next { s with status := statusWord 2 3 2 }) ∧
    (∀ k, combo (ComboOperand.ofWord v) s = some k → 0 ≤ k.toInt → s.jt = false →
      ∃ q : Word, q.toInt = floordiv s.a.toInt (2 ^ k.toNat) ∧ q = asr s.a (min k.toNat 63) ∧
        exec (decodePair 6 v) s = .next { s with b := q, pc := s.pc + 2 })

/-- cdv (R126, R127): as adv, with C the destination. -/
def Obligations.CdvResult : Prop :=
  ∀ (v : ProgWord) (s : State), decodePair 7 v = .cdv (ComboOperand.ofWord v) ∧
    (v = 7 → exec (decodePair 7 v) s = .next { s with status := statusWord 2 3 1 }) ∧
    (∀ k, combo (ComboOperand.ofWord v) s = some k → k.toInt < 0 →
      exec (decodePair 7 v) s = .next { s with status := statusWord 2 3 2 }) ∧
    (∀ k, combo (ComboOperand.ofWord v) s = some k → 0 ≤ k.toInt → s.jt = false →
      ∃ q : Word, q.toInt = floordiv s.a.toInt (2 ^ k.toNat) ∧ q = asr s.a (min k.toNat 63) ∧
        exec (decodePair 7 v) s = .next { s with c := q, pc := s.pc + 2 })

/-- bxl (R114, R115): B := B XOR the literal, for every operand value; only bits [2:0] of B change and its sign is kept;
the advance; nothing else changes. -/
def Obligations.BxlResult : Prop :=
  ∀ (v : ProgWord) (s : State), decodePair 1 v = .bxl v ∧
    (s.jt = false → ∃ q : Word, (∀ j, q.getLsbD j = (s.b.getLsbD j ^^ v.getLsbD j)) ∧
      (∀ j, 3 ≤ j → q.getLsbD j = s.b.getLsbD j) ∧ (q.toInt < 0 ↔ s.b.toInt < 0) ∧
      exec (decodePair 1 v) s = .next { s with b := q, pc := s.pc + 2 })

/-- bst (R117, R118): InvalidComboOperand on operand 7; else, for every resolved value, negative ones too,
B := combo mod 8, a value 0 to 7, and the advance; nothing else changes. -/
def Obligations.BstResult : Prop :=
  ∀ (v : ProgWord) (s : State), decodePair 2 v = .bst (ComboOperand.ofWord v) ∧
    (v = 7 → exec (decodePair 2 v) s = .next { s with status := statusWord 2 3 1 }) ∧
    (∀ k, combo (ComboOperand.ofWord v) s = some k → s.jt = false →
      ∃ q : Word, q.toInt = mod8 k.toInt ∧ 0 ≤ q.toInt ∧ q.toInt ≤ 7 ∧
        exec (decodePair 2 v) s = .next { s with b := q, pc := s.pc + 2 })

/-- bxc (R120, R121, R68): B := B XOR C whatever the operand word, and the advance; nothing else changes. -/
def Obligations.BxcResult : Prop :=
  ∀ (v : ProgWord) (s : State), decodePair 4 v = .bxc v ∧ exec (decodePair 4 v) s = exec (decodePair 4 0) s ∧
    (s.jt = false → ∃ q : Word, (∀ j, q.getLsbD j = (s.b.getLsbD j ^^ s.c.getLsbD j)) ∧
      exec (decodePair 4 v) s = .next { s with b := q, pc := s.pc + 2 })

/-- jnz (R140, R141): taken exactly when A ≠ 0, to the literal index with no advance; else the normal advance. Every
operand value runs, and nothing but the pc changes. -/
def Obligations.JnzResult : Prop :=
  ∀ (v : ProgWord) (s : State), decodePair 3 v = .jnz v ∧
    (s.a.toInt ≠ 0 → s.jt = false →
      exec (decodePair 3 v) s = .next { s with pc := BitVec.ofNat 64 v.toNat }) ∧
    (s.a.toInt = 0 → s.jt = false → exec (decodePair 3 v) s = .next { s with pc := s.pc + 2 })

/-- out (R150, R151): InvalidComboOperand on operand 7; OutputOverflow only with OUT_HALTS false and OUT full; else
combo mod 8 is appended, and the run ends with HALT_OUT and the pc unchanged, or goes on with the advance. -/
def Obligations.OutResult : Prop :=
  ∀ (v : ProgWord) (s : State), decodePair 5 v = .out (ComboOperand.ofWord v) ∧
    (v = 7 → exec (decodePair 5 v) s = .next { s with status := statusWord 2 3 1 }) ∧
    (∀ k, combo (ComboOperand.ofWord v) s = some k →
      ∃ e : ProgWord, (e.toNat : Int) = mod8 k.toInt ∧
        (s.cfg.outHalts = true →
          exec (decodePair 5 v) s = .next { s with out := s.out ++ [e], status := statusWord 2 2 0 }) ∧
        (s.cfg.outHalts = false → s.cfg.outDepth = some s.out.length →
          exec (decodePair 5 v) s = .next { s with status := statusWord 2 3 3 }) ∧
        (s.cfg.outHalts = false → s.cfg.outDepth ≠ some s.out.length → s.jt = false →
          exec (decodePair 5 v) s = .next { s with out := s.out ++ [e], pc := s.pc + 2 }))

/-! ## Frames and faults -/

/-- The frame of the six ALU instructions: at most their one destination register (R24) changes among the registers;
STATUS changes only if the instruction faults, and then nothing else does; OUT, every word of P, the configuration, the
trace and the pending run starts stay; the jump-taken flag is not set. -/
def Obligations.AluFrame : Prop :=
  ∀ (i : Instr) (d : Reg) (s t : State), destination i = some d → exec i s = .next t →
    (∀ r, r ≠ d → t.readReg r = s.readReg r) ∧
    (t.status = s.status ∨ ∃ f, faultRaised i s = some f ∧ t = { s with status := statusWord 2 3 f.code }) ∧
    t.out = s.out ∧ t.progLen = s.progLen ∧ (∀ j, t.memRead j = s.memRead j) ∧ t.cfg = s.cfg ∧
    t.trace = s.trace ∧ t.launches = s.launches ∧ (t.jt = s.jt ∨ t.jt = false)

/-- The frame of jnz: it writes the pc, and of the rest only clears the jump-taken flag. -/
def Obligations.JnzFrame : Prop :=
  ∀ (v : ProgWord) (s t : State), exec (.jnz v) s = .next t →
    (∀ r, t.readReg r = s.readReg r) ∧ t.status = s.status ∧ t.out = s.out ∧ t.progLen = s.progLen ∧
    (∀ j, t.memRead j = s.memRead j) ∧ t.cfg = s.cfg ∧ t.trace = s.trace ∧ t.launches = s.launches ∧ t.jt = false

/-- The frame of out: no register changes; OUT keeps every entry it held and gains at most one; STATUS changes only by
HALT_OUT or a fault; every word of P and the rest stay. -/
def Obligations.OutFrame : Prop :=
  ∀ (o : ComboOperand) (s t : State), exec (.out o) s = .next t →
    (∀ r, t.readReg r = s.readReg r) ∧
    (t.out = s.out ∧ (∃ f, faultRaised (.out o) s = some f) ∨ ∃ e, t.out = s.out ++ [e]) ∧
    (t.status = s.status ∨ (s.cfg.outHalts = true ∧ t.status = statusWord 2 2 0 ∧ t.pc = s.pc) ∨
      ∃ f, faultRaised (.out o) s = some f ∧ t = { s with status := statusWord 2 3 f.code }) ∧
    t.progLen = s.progLen ∧ (∀ j, t.memRead j = s.memRead j) ∧ t.cfg = s.cfg ∧ t.trace = s.trace ∧
    t.launches = s.launches ∧ (t.jt = s.jt ∨ t.jt = false)

/-- Every instruction runs in every state; it faults exactly when the table of spec/60_exceptions.md R160 says so, with
its CODE, precisely: nothing but STATUS changes (R160, R161, R162, R164, R165). -/
def Obligations.FaultsExactlyAsTabled : Prop :=
  CoreFault.invalidComboOperand.code = 1 ∧ CoreFault.negativeShift.code = 2 ∧ CoreFault.outputOverflow.code = 3 ∧
  ∀ (i : Instr) (s : State),
    (∀ f, faultRaised i s = some f → exec i s = .next { s with status := statusWord 2 3 f.code }) ∧
    (faultRaised i s = none → statusReason s.status ≠ 3 → ∃ t, exec i s = .next t ∧ statusReason t.status ≠ 3)

/-- The state frozen by a fault is its record: the pair at its pc, and for NegativeShift the count, are those of the
faulting instruction, A, B, C, pc, OUT and P are as before it, and with TRACE_EN the last trace record is that
instruction's (R163). -/
def Obligations.FaultRecordIsFrozenState : Prop :=
  ∀ s t : State, Running s → step s = .next t → statusReason s.status ≠ 3 → statusReason t.status = 3 →
    t.a = s.a ∧ t.b = s.b ∧ t.c = s.c ∧ t.pc = s.pc ∧ t.out = s.out ∧ t.prog = s.prog ∧
    ∃ op v k, s.prog[s.pc.toNat]? = some op ∧ s.prog[s.pc.toNat + 1]? = some v ∧
      faultInfo t = some { pc := s.pc, op := op, operand := v, k := k } ∧
      (k = if statusCode t.status = 2 then combo (ComboOperand.ofWord v) s else none) ∧
      (s.cfg.traceEn = true →
        t.trace = s.trace ++ [{ a := s.a, b := s.b, c := s.c, pc := s.pc, op := op, operand := v }])

/-! ## The step -/

/-- With the words op and v at pc and pc + 1, a running step is exec of the pair they decode to, on the state with the
jump-taken flag cleared and, with TRACE_EN, one trace record appended (spec/40_sequencer.md R82, R83, R84, R99). -/
def Obligations.StepRunsDecodedPair : Prop :=
  ∀ (s : State) (op v : ProgWord), Running s → s.prog[s.pc.toNat]? = some op → s.prog[s.pc.toNat + 1]? = some v →
    step s = exec (decodePair op v)
      { s with
        jt := false
        trace := if s.cfg.traceEn = true
          then s.trace ++ [{ a := s.a, b := s.b, c := s.c, pc := s.pc, op := op, operand := v }] else s.trace }

/-- The bounds check pc + 1 < N (R81): if it fails the run ends with HALT_BOUNDS, nothing is fetched or traced, and only
STATUS changes; if it holds, both words of the pair are inside the program and the step goes on to execute it. For every
even pc and even N it is the test pc < N. -/
def Obligations.BoundsCheckHalts : Prop :=
  ∀ s : State, Running s → s.jt = false →
    (¬ s.pc.toNat + 1 < s.progLen → step s = .next { s with status := statusWord 2 1 0 }) ∧
    (s.pc.toNat + 1 < s.progLen → ∃ op v, s.memRead s.pc.toNat = .ok op ∧ s.memRead (s.pc.toNat + 1) = .ok v ∧
      step s = exec (decodePair op v) (s.traced op v)) ∧
    (s.pc.toNat % 2 = 0 → s.progLen % 2 = 0 → (s.inBounds = true ↔ s.pc.toNat < s.progLen))

/-- A step stops with a fault of the model only when STATUS holds a reserved value: no fetch ever leaves the program
(R45, R82) and no read of a register stops a run. That it stops there, the other direction, is the model's choice
(notes/assumptions/8.md, DEDUCED): spec/93_implementation_defined.md U15 speaks of a host reading such a value, and no rule
says what a step does. -/
def Obligations.StepFaultsOnlyOnReservedStatus : Prop :=
  ∀ (s : State) (f : Fault), step s = .fault f ↔ f = .reservedStatus ∧ statusLegal s.status = false

/-- While STATE = RUNNING, every step answers a next state: no instruction and no end of a run stops the model. With a
REASON other than NONE, which RUNNING never has (R33), that the step goes by STATE is the model's choice
(notes/assumptions/8.md). -/
def Obligations.RunningAlwaysSteps : Prop :=
  ∀ s : State, Running s → ∃ t, step s = .next t

/-- While STATE = RUNNING no step writes P, the configuration or the pending run starts (spec/20_memory.md R50). -/
def Obligations.ProgramReadOnlyDuringRun : Prop :=
  ∀ s t : State, Running s → step s = .next t →
    t.prog = s.prog ∧ (∀ j, t.memRead j = s.memRead j) ∧ t.cfg = s.cfg ∧ t.launches = s.launches

/-- The only writes of the pc in a run: +2, or a taken jnz; a halt and a fault leave it (spec/10_state.md R27). -/
def Obligations.PcWriters : Prop :=
  ∀ (s t : State) (op v : ProgWord), Running s → s.prog[s.pc.toNat]? = some op → s.prog[s.pc.toNat + 1]? = some v →
    step s = .next t →
    t.pc = if statusState t.status = 2 then s.pc
      else if op = 3 ∧ s.a ≠ 0 then BitVec.ofNat 64 v.toNat else s.pc + 2

/-- The advance never wraps: an executing pc is at most N - 2, and pc + 2 is exact (R28). -/
def Obligations.AdvanceNeverWraps : Prop :=
  ∀ s : State, s.Inv → s.inBounds = true →
    s.pc.toNat + 2 ≤ s.progLen ∧ (s.pc + 2).toNat = s.pc.toNat + 2 ∧ (s.pc + 2).toNat < 2 ^ 64

/-- The trace port sends one record per fetched instruction, before it executes and also when it faults, and none
otherwise (R83). -/
def Obligations.TraceRecordPerFetch : Prop :=
  ∀ s t : State, Running s → step s = .next t →
    (∀ op v, s.prog[s.pc.toNat]? = some op → s.prog[s.pc.toNat + 1]? = some v → s.cfg.traceEn = true →
      t.trace = s.trace ++ [{ a := s.a, b := s.b, c := s.c, pc := s.pc, op := op, operand := v }]) ∧
    (s.progLen ≤ s.pc.toNat + 1 ∨ s.cfg.traceEn = false → t.trace = s.trace)

/-- OUT is written only by `out`, one entry at its end (R30). -/
def Obligations.OutGrowsOnlyByOut : Prop :=
  ∀ s t : State, Running s → step s = .next t →
    t.out = s.out ∨ (s.prog[s.pc.toNat]? = some 5 ∧ ∃ e, t.out = s.out ++ [e])

/-- A run that a step ends with HALT_OUT has its pc still at the `out` that halted, and OUT_HALTS is true (R89). -/
def Obligations.HaltOutKeepsPc : Prop :=
  ∀ s t : State, Running s → statusReason s.status = 0 → step s = .next t → statusReason t.status = 2 →
    s.cfg.outHalts = true ∧ t.pc = s.pc ∧ t.prog[t.pc.toNat]? = some 5 ∧ ∃ e, t.out = s.out ++ [e]

/-- A taken jump to an index t with t + 1 ≥ N is legal: the next step ends the run with HALT_BOUNDS and the pc holds t
(spec/42_control.md R143). -/
def Obligations.JumpPastEndHalts : Prop :=
  ∀ (s : State) (v : ProgWord), Running s → s.prog[s.pc.toNat]? = some 3 → s.prog[s.pc.toNat + 1]? = some v →
    s.a ≠ 0 → s.progLen ≤ v.toNat + 1 →
    ∃ t u, step s = .next t ∧ t.pc.toNat = v.toNat ∧ step t = .next u ∧ u.status = statusWord 2 1 0 ∧ u.pc = t.pc

/-! ## STATUS, reset and run start -/

/-- The layout of STATUS, and the ten values of it that are ever produced (spec/10_state.md R32). -/
def Obligations.StatusLayout : Prop :=
  (∀ (st : BitVec 2) (r c : BitVec 3), statusState (statusWord st r c) = st ∧ statusReason (statusWord st r c) = r ∧
    statusCode (statusWord st r c) = c ∧ (statusWord st r c).toNat = st.toNat + 4 * r.toNat + 32 * c.toNat) ∧
  (∀ w : Status, statusProduced w = true ↔ w.toNat ∈ [0, 1, 6, 10, 46, 78, 110, 50, 82, 114])

/-- The transitions of STATUS (R33): in a run, a failed bounds check, a halting `out` and a fault change it, to DONE with
their reason and code, and nothing else changes it; between runs it persists until a run start, which sets RUNNING or,
refused, DONE with the refusal's code. -/
def Obligations.StatusTransitions : Prop :=
  ∀ s t : State, step s = .next t →
    (Running s → instrAtPc s = none → t.status = statusWord 2 1 0) ∧
    (Running s → ∀ i, instrAtPc s = some i →
      t.status = match faultRaised i s with
        | some f => statusWord 2 3 f.code
        | none => if atOut s = true ∧ s.cfg.outHalts = true then statusWord 2 2 0 else s.status) ∧
    (AtRest s → s.launches = [] → t.status = s.status) ∧
    (AtRest s → ∀ l rest, s.launches = l :: rest →
      (launchCheck l = none → t.status = statusWord 1 0 0) ∧
      (∀ r, launchCheck l = some r → t.status = statusWord 2 4
        (match r with | .invalidProgramWord _ => 1 | .registerOutOfRange _ => 2 | .programTooLong => 3)))

/-- After power-on reset: STATE = IDLE, REASON = NONE, CODE = 0, P and OUT empty and jt = 0 (R190, R35). A, B, C and pc
hold no value there, and R36 says that a read of them faults: that the host's read of each answers, with the verdict that
none is held, is the model's form of that fault (notes/assumptions/1.md, DESIGN CHOICE). -/
def Obligations.PowerOnReset : Prop :=
  statusState State.reset.status = 0 ∧ statusReason State.reset.status = 0 ∧ statusCode State.reset.status = 0 ∧
  State.reset.progLen = 0 ∧ State.reset.out = [] ∧ State.reset.jt = false ∧
  (∀ r, ∃ v, hostReadReg r State.reset = .next { value := v, held := false }) ∧
  (∃ v, hostReadPc State.reset = .next { value := v, held := false }) ∧ Sys2Proof.core.reset = State.reset

/-- Under ValidLaunch the run start is not refused, and the state after it is the "at run start" column of R35, whatever
the state before it (R199). -/
def Obligations.ValidLaunchLoads : Prop :=
  ∀ (s : State) (l : Launch), ValidLaunch l →
    launchCheck l = none ∧ (s.runStart l).a.toInt = l.a0 ∧ (s.runStart l).b.toInt = l.b0 ∧
    (s.runStart l).c.toInt = l.c0 ∧ (s.runStart l).pc = 0 ∧
    (s.runStart l).prog.map (fun w => (w.toNat : Int)) = l.program ∧ (s.runStart l).out = [] ∧
    (s.runStart l).status = statusWord 1 0 0 ∧ (s.runStart l).jt = false ∧ (s.runStart l).cfg = l.cfg

/-- Each refusal of R166: a run start that breaks a load condition sets STATUS to DONE, REFUSED and the code of the first
condition broken (a program too long before a bad word, a bad word before a register out of range), and OUT is empty. A,
B, C and pc hold no value there (R37), and R36 says that a read of them faults: that the host's read of each answers, with
the verdict that none is held, is the model's form of that fault (notes/assumptions/1.md, DESIGN CHOICE). -/
def Obligations.RunStartRefusals : Prop :=
  ∀ (s : State) (l : Launch),
    ¬ (l.program.length ≤ l.cfg.progMax ∧ (∀ n ∈ l.program, 0 ≤ n ∧ n ≤ 7) ∧
      ∀ n ∈ [l.a0, l.b0, l.c0], -(2 ^ 63) ≤ n ∧ n ≤ 2 ^ 63 - 1) →
    (s.runStart l).out = [] ∧ (∀ r, ∃ v, hostReadReg r (s.runStart l) = .next { value := v, held := false }) ∧
    (∃ v, hostReadPc (s.runStart l) = .next { value := v, held := false }) ∧
    (s.runStart l).status = statusWord 2 4
      (if l.cfg.progMax < l.program.length then 3 else if ∃ n ∈ l.program, ¬ (0 ≤ n ∧ n ≤ 7) then 1 else 2)

/-- Between runs, the step makes the next run start of those the host has yet to make, and no other step makes one; a
configuration that R5 forbids is a host outside the spec, and refused by name. The queue of run starts is the model's
(notes/assumptions/4.md). -/
def Obligations.RestMakesNextRunStart : Prop :=
  ∀ (s : State) (l : Launch) (rest : List Launch), s.launches = l :: rest →
    (AtRest s → configValid l.cfg = true → step s = .next (({ s with launches := rest } : State).runStart l)) ∧
    (AtRest s → configValid l.cfg = false → step s = .refused .configOutsideParameters) ∧
    (Running s → ∀ t, step s = .next t → t.launches = l :: rest)

/-- What the load check reports (R91, R167): InvalidProgramWord names the lowest bad index, RegisterOutOfRange the first
bad register in the order A, B, C, and each only if no earlier check fails. -/
def Obligations.LoadCheckOrder : Prop :=
  ∀ l : Launch,
    (launchCheck l = some .programTooLong ↔ l.cfg.progMax < l.program.length) ∧
    (∀ i, launchCheck l = some (.invalidProgramWord i) ↔ l.program.length ≤ l.cfg.progMax ∧
      (∃ n, l.program[i]? = some n ∧ ¬ (0 ≤ n ∧ n ≤ 7)) ∧ ∀ j n, j < i → l.program[j]? = some n → 0 ≤ n ∧ n ≤ 7) ∧
    (∀ r, launchCheck l = some (.registerOutOfRange r) ↔
      l.program.length ≤ l.cfg.progMax ∧ (∀ n ∈ l.program, 0 ≤ n ∧ n ≤ 7) ∧
      (match r with
        | .a => inRange64 l.a0 = false
        | .b => inRange64 l.a0 = true ∧ inRange64 l.b0 = false
        | .c => inRange64 l.a0 = true ∧ inRange64 l.b0 = true ∧ inRange64 l.c0 = false))

/-- Between runs with no run start to come, the machine keeps its state for ever: DONE is frozen, IDLE waits (R37, R176). -/
def Obligations.RestKeepsState : Prop :=
  ∀ (s : State) (n : Nat), AtRest s → s.launches = [] →
    step s = .next s ∧ runFuel n s = if statusState s.status = 2 then .ended s else .noEnd s

/-- The host reads A, B, C and pc of an ended run as final values (R37), and elsewhere at rest with the verdict that none is
held, the model's form of R36's fault (notes/assumptions/1.md); while STATE = RUNNING it has no such read (R193), which the
model refuses (notes/assumptions/10.md). -/
def Obligations.HostReads : Prop :=
  ∀ (r : Reg) (s : State),
    (AtRest s → (statusState s.status = 0 ∨ statusReason s.status = 4) →
      hostReadReg r s = .next { value := s.readReg r, held := false } ∧
      hostReadPc s = .next { value := s.pc, held := false }) ∧
    (AtRest s → statusState s.status = 2 → statusReason s.status ≠ 4 →
      hostReadReg r s = .next { value := s.readReg r, held := true } ∧
      hostReadPc s = .next { value := s.pc, held := true } ∧ hostReadOut s = .next s.out) ∧
    (Running s → hostReadReg r s = .refused .hostAccessWhileRunning ∧ hostReadStatus s = .next s.status) ∧
    (∀ i w, s.prog[i]? = some w → hostReadProg i s = .next w)

/-- The result owed to the host: OUT after a halt, the code only after a fault or a refusal (spec/40_sequencer.md R95),
and a good end is a halt (R194). -/
def Obligations.ResultOwedToHost : Prop :=
  ∀ s : State, s.Inv →
    (GoodEnd s ↔ hostResult s = some (.output s.out)) ∧
    (statusReason s.status = 3 → hostResult s = some (.faultCode (statusCode s.status))) ∧
    (statusReason s.status = 4 → hostResult s = some (.refusalCode (statusCode s.status))) ∧
    (statusState s.status ≠ 2 ↔ hostResult s = none)

/-! ## Whole-machine statements -/

/-- Every step from a state that meets the invariant gives a state that meets it. Three conjuncts are kept by the model's
choices, not by a rule: without TRACE_EN the trace is empty, across a run start, since that empties the stream
(notes/assumptions/5.md); N ≤ PROG_MAX after a refusal, which keeps P and the configuration (notes/assumptions/6.md); and
pc ≤ max(N, 7) after a refusal, where R37 gives the pc no value and the placeholder is 0 (notes/assumptions/1.md). -/
def Obligations.StepKeepsInvariant : Prop :=
  ∀ s t : State, s.Inv → step s = .next t → t.Inv

/-- The state after power-on reset meets the invariant, with any run starts to come. Three conjuncts hold there by the
model's choices: the configuration is an allowed one (notes/assumptions/2.md), pc ≤ max(N, 7) because the placeholder of a
pc that holds no value (R36) is 0 (notes/assumptions/1.md), and the trace starts empty (notes/assumptions/5.md). -/
def Obligations.ResetMeetsInvariant : Prop :=
  ∀ ls : List Launch, ({ State.reset with launches := ls } : State).Inv

/-- Registers and pc are not read before a run start: between runs with no value held, changing them changes nothing of
any step but themselves, and nothing at all of a step that makes a run start (R36). The fields they hold meanwhile are the
model's (notes/assumptions/1.md). -/
def Obligations.NoValueIsNeverRead : Prop :=
  ∀ (s : State) (a b c pc : Word), AtRest s → holdsNoValue s = true →
    let s' : State := { s with a := a, b := b, c := c, pc := pc }
    (s.launches = [] → step s' = .next s' ∧ step s = .next s) ∧
    (s.launches ≠ [] → step s' = step s)

/-- Nothing of an earlier run is visible to a later one: a run start that is not refused gives the same state from any
two states at rest with the same run starts to come (R38). That the trace stream, no part of R35's state, is the same too
is the model's choice: a run start empties it (notes/assumptions/5.md). -/
def Obligations.RunStartForgetsEarlierRun : Prop :=
  ∀ (s s' : State) (l : Launch) (rest : List Launch), AtRest s → AtRest s' → s.launches = l :: rest →
    s'.launches = l :: rest → launchCheck l = none → step s = step s'

/-- TRACE_EN changes no architectural state: with tracing off, now and in every run start to come, the machine makes the
same steps and stops on the same reasons, but for the trace stream; and so over any number of steps (R5, R83). -/
def Obligations.TracingChangesNothing : Prop :=
  (∀ s : State, step s.quiet = quietOutcome (step s)) ∧
  (∀ (n : Nat) (s : State), runFuel n s.quiet =
    match runFuel n s with
    | .ended t => .ended t.quiet
    | .noEnd t => .noEnd t.quiet
    | .faulted f => .faulted f
    | .refused r => .refused r)

/-- The 64-bit CORE computes exactly what the source's unbounded integers compute: each running step is the turn of the
source's loop on the same values, and stops with a fault exactly where the source gives no meaning, or where a finite OUT
is full (R6). -/
def Obligations.CoreMatchesUnboundedInterpreter : Prop :=
  ∀ s t : State, s.Inv → Running s → step s = .next t →
    match refTurn s.cfg.outHalts (s.prog.map BitVec.toNat) s.toRef with
    | .goesOn r => (t.status = s.status ∧ t.toRef = r) ∨ (t.status = statusWord 2 3 3 ∧ s.cfg.outDepth = some s.out.length)
    | .ends .haltBounds r => t.status = statusWord 2 1 0 ∧ t.toRef = r
    | .ends .haltOut r => t.status = statusWord 2 2 0 ∧ t.toRef = r
    | .noMeaning => (t.status = statusWord 2 3 1 ∨ t.status = statusWord 2 3 2) ∧ t.toRef = s.toRef

/-- A jump to its own index with A ≠ 0 loops for ever: under any fuel no end is reached, STATE stays RUNNING, and
registers, pc and OUT keep their values (R142, R96). -/
def Obligations.SelfJumpNeverEnds : Prop :=
  ∀ (s : State) (v : ProgWord) (n : Nat), Running s → s.prog[s.pc.toNat]? = some 3 →
    s.prog[s.pc.toNat + 1]? = some v → s.pc.toNat = v.toNat → s.a ≠ 0 →
    ∃ t, runFuel n s = .noEnd t ∧ t.status = s.status ∧ t.a = s.a ∧ t.b = s.b ∧ t.c = s.c ∧ t.pc = s.pc ∧ t.out = s.out

/-- With A = 0 no jump is taken and A stays 0, so every run ends, within N + 1 steps. -/
def Obligations.ZeroARunEnds : Prop :=
  ∀ s : State, s.Inv → Running s → s.a = 0 → ∃ t, runFuel (s.progLen + 1) s = .ended t ∧ t.a = 0

/-- Fuel is no end: an ended run is DONE, fuel that runs out is not, and more fuel never changes an end (R96). -/
def Obligations.FuelIsNoEnd : Prop :=
  ∀ (n : Nat) (s t : State),
    (runFuel n s = .ended t → statusState t.status = 2 ∧ ∀ m, runFuel (n + m) s = .ended t) ∧
    (runFuel n s = .noEnd t → statusState t.status ≠ 2)

/-- How a run from a valid launch ends, if it ends (R90): HALT_BOUNDS, with OUT empty under OUT_HALTS; HALT_OUT, only
under OUT_HALTS and with OUT exactly one entry; or FAULT. It is never refused and the model never stops. The invariant of
the end state includes an empty trace without TRACE_EN, which rests on the model's choice (notes/assumptions/5.md). -/
def Obligations.RunEndsAsTabled : Prop :=
  ∀ (l : Launch) (n : Nat), ValidLaunch l → configValid l.cfg = true →
    (∃ t, runLaunch l n = .noEnd t) ∨
    (∃ t, runLaunch l n = .ended t ∧ t.Inv ∧ t.cfg = l.cfg ∧
      (statusReason t.status = 1 ∧ (l.cfg.outHalts = true → t.out = []) ∨
       statusReason t.status = 2 ∧ l.cfg.outHalts = true ∧ t.out.length = 1 ∨
       statusReason t.status = 3))

/-- Short programs: with N = 0 or N = 1 a valid run ends at its first bounds check, HALT_BOUNDS with OUT empty and the
registers as given (R98). -/
def Obligations.ShortProgramsHaltAtOnce : Prop :=
  ∀ l : Launch, ValidLaunch l → configValid l.cfg = true → l.program.length ≤ 1 →
    ∃ t, runLaunch l 1 = .ended t ∧ t.status = statusWord 2 1 0 ∧ t.out = [] ∧ t.pc = 0 ∧
      t.a.toInt = l.a0 ∧ t.b.toInt = l.b0 ∧ t.c.toInt = l.c0

/-! ## Corner cases and notation -/

/-- Corner cases of the shift-division (R113, R125, R128): a count of 0 copies A; the count may be the destination's old
value; A = -1 stays -1 under every count; `adv 4` with A ≥ 63 gives 0. -/
def Obligations.ShiftCornerCases : Prop :=
  ∀ (s : State), s.jt = false →
    exec (.adv (.literal 0)) s = .next { s with pc := s.pc + 2 } ∧
    exec (.bdv (.literal 0)) s = .next { s with b := s.a, pc := s.pc + 2 } ∧
    (0 ≤ s.b.toInt → ∃ q : Word, q.toInt = floordiv s.a.toInt (2 ^ s.b.toNat) ∧
      exec (.bdv (.register .b)) s = .next { s with b := q, pc := s.pc + 2 }) ∧
    (0 ≤ s.c.toInt → ∃ q : Word, q.toInt = floordiv s.a.toInt (2 ^ s.c.toNat) ∧
      exec (.cdv (.register .c)) s = .next { s with c := q, pc := s.pc + 2 }) ∧
    (s.a.toInt = -1 → 0 ≤ s.c.toInt → exec (.adv (.register .c)) s = .next { s with pc := s.pc + 2 }) ∧
    (63 ≤ s.a.toInt → exec (.adv (.register .a)) s = .next { s with a := 0, pc := s.pc + 2 }) ∧
    (s.a.toInt < 0 → exec (.adv (.register .a)) s = .next { s with status := statusWord 2 3 2 })

/-- Two `bxl k` with the same k restore B (R116). -/
def Obligations.BxlTwiceRestoresB : Prop :=
  ∀ (v : ProgWord) (s : State), s.jt = false →
    ∃ t, exec (.bxl v) s = .next t ∧ exec (.bxl v) t = .next { s with pc := s.pc + 2 + 2 }

/-- Assembling the lines of any well-formed instructions gives their words, and listing those words gives the
instructions back (R72, R74). -/
def Obligations.AssembleInvertsListing : Prop :=
  ∀ is : List Instr, (∀ i ∈ is, i.WellFormed = true) →
    assemble (is.map lineText) = some (is.flatMap encode) ∧ disassemble (is.flatMap encode) = is

/-- A packed instruction value placed where the next step fetches is run by it. -/
def Obligations.PlacedInstructionRuns : Prop :=
  ∀ (s : State) (w : Nat) (i : Instr), decodeTableWord 8 w = some i → s.cfg.traceEn = false →
    step (s.withFetchWord 8 w) = exec i { s.withFetchWord 8 w with jt := false }

/-- With A = 0, every running step keeps the invariant and A = 0, and ends the run or adds 2 to the pc: no instruction
changes A = 0, and no jump is taken (R111, R140, R88). -/
def Obligations.ZeroAStepAdvances : Prop :=
  ∀ s t : State, s.Inv → Running s → s.a = 0 → step s = .next t →
    t.Inv ∧ t.a = 0 ∧ (statusState t.status = 2 ∨
      (t.status = s.status ∧ t.pc.toNat = s.pc.toNat + 2 ∧ t.pc.toNat ≤ s.progLen))
end

