-- ==== Sys2Proof/Laws/State.lean ====
section
/-! SUPPORT. Each state update, field by field, so that no later proof unfolds a record update. -/

namespace Sys2Proof.Machine

variable (s : State)

@[simp] theorem State.setStatus_a (w : Status) : (s.setStatus w).a = s.a := rfl
@[simp] theorem State.setStatus_b (w : Status) : (s.setStatus w).b = s.b := rfl
@[simp] theorem State.setStatus_c (w : Status) : (s.setStatus w).c = s.c := rfl
@[simp] theorem State.setStatus_pc (w : Status) : (s.setStatus w).pc = s.pc := rfl
@[simp] theorem State.setStatus_prog (w : Status) : (s.setStatus w).prog = s.prog := rfl
@[simp] theorem State.setStatus_out (w : Status) : (s.setStatus w).out = s.out := rfl
@[simp] theorem State.setStatus_status (w : Status) : (s.setStatus w).status = w := rfl
@[simp] theorem State.setStatus_jt (w : Status) : (s.setStatus w).jt = s.jt := rfl
@[simp] theorem State.setStatus_cfg (w : Status) : (s.setStatus w).cfg = s.cfg := rfl
@[simp] theorem State.setStatus_trace (w : Status) : (s.setStatus w).trace = s.trace := rfl
@[simp] theorem State.setStatus_launches (w : Status) : (s.setStatus w).launches = s.launches := rfl

@[simp] theorem State.clearJt_a : (s.clearJt).a = s.a := rfl
@[simp] theorem State.clearJt_b : (s.clearJt).b = s.b := rfl
@[simp] theorem State.clearJt_c : (s.clearJt).c = s.c := rfl
@[simp] theorem State.clearJt_pc : (s.clearJt).pc = s.pc := rfl
@[simp] theorem State.clearJt_prog : (s.clearJt).prog = s.prog := rfl
@[simp] theorem State.clearJt_out : (s.clearJt).out = s.out := rfl
@[simp] theorem State.clearJt_status : (s.clearJt).status = s.status := rfl
@[simp] theorem State.clearJt_jt : (s.clearJt).jt = false := rfl
@[simp] theorem State.clearJt_cfg : (s.clearJt).cfg = s.cfg := rfl
@[simp] theorem State.clearJt_trace : (s.clearJt).trace = s.trace := rfl
@[simp] theorem State.clearJt_launches : (s.clearJt).launches = s.launches := rfl

@[simp] theorem State.setJt_a : (s.setJt).a = s.a := rfl
@[simp] theorem State.setJt_b : (s.setJt).b = s.b := rfl
@[simp] theorem State.setJt_c : (s.setJt).c = s.c := rfl
@[simp] theorem State.setJt_pc : (s.setJt).pc = s.pc := rfl
@[simp] theorem State.setJt_prog : (s.setJt).prog = s.prog := rfl
@[simp] theorem State.setJt_out : (s.setJt).out = s.out := rfl
@[simp] theorem State.setJt_status : (s.setJt).status = s.status := rfl
@[simp] theorem State.setJt_jt : (s.setJt).jt = true := rfl
@[simp] theorem State.setJt_cfg : (s.setJt).cfg = s.cfg := rfl
@[simp] theorem State.setJt_trace : (s.setJt).trace = s.trace := rfl
@[simp] theorem State.setJt_launches : (s.setJt).launches = s.launches := rfl

@[simp] theorem State.setPc_a (w : Word) : (s.setPc w).a = s.a := rfl
@[simp] theorem State.setPc_b (w : Word) : (s.setPc w).b = s.b := rfl
@[simp] theorem State.setPc_c (w : Word) : (s.setPc w).c = s.c := rfl
@[simp] theorem State.setPc_pc (w : Word) : (s.setPc w).pc = w := rfl
@[simp] theorem State.setPc_prog (w : Word) : (s.setPc w).prog = s.prog := rfl
@[simp] theorem State.setPc_out (w : Word) : (s.setPc w).out = s.out := rfl
@[simp] theorem State.setPc_status (w : Word) : (s.setPc w).status = s.status := rfl
@[simp] theorem State.setPc_jt (w : Word) : (s.setPc w).jt = s.jt := rfl
@[simp] theorem State.setPc_cfg (w : Word) : (s.setPc w).cfg = s.cfg := rfl
@[simp] theorem State.setPc_trace (w : Word) : (s.setPc w).trace = s.trace := rfl
@[simp] theorem State.setPc_launches (w : Word) : (s.setPc w).launches = s.launches := rfl

@[simp] theorem State.emit_a (v : ProgWord) : (s.emit v).a = s.a := rfl
@[simp] theorem State.emit_b (v : ProgWord) : (s.emit v).b = s.b := rfl
@[simp] theorem State.emit_c (v : ProgWord) : (s.emit v).c = s.c := rfl
@[simp] theorem State.emit_pc (v : ProgWord) : (s.emit v).pc = s.pc := rfl
@[simp] theorem State.emit_prog (v : ProgWord) : (s.emit v).prog = s.prog := rfl
@[simp] theorem State.emit_out (v : ProgWord) : (s.emit v).out = s.out ++ [v] := rfl
@[simp] theorem State.emit_status (v : ProgWord) : (s.emit v).status = s.status := rfl
@[simp] theorem State.emit_jt (v : ProgWord) : (s.emit v).jt = s.jt := rfl
@[simp] theorem State.emit_cfg (v : ProgWord) : (s.emit v).cfg = s.cfg := rfl
@[simp] theorem State.emit_trace (v : ProgWord) : (s.emit v).trace = s.trace := rfl
@[simp] theorem State.emit_launches (v : ProgWord) : (s.emit v).launches = s.launches := rfl

@[simp] theorem State.halt_a (h : HaltReason) : (s.halt h).a = s.a := rfl
@[simp] theorem State.halt_b (h : HaltReason) : (s.halt h).b = s.b := rfl
@[simp] theorem State.halt_c (h : HaltReason) : (s.halt h).c = s.c := rfl
@[simp] theorem State.halt_pc (h : HaltReason) : (s.halt h).pc = s.pc := rfl
@[simp] theorem State.halt_prog (h : HaltReason) : (s.halt h).prog = s.prog := rfl
@[simp] theorem State.halt_out (h : HaltReason) : (s.halt h).out = s.out := rfl
@[simp] theorem State.halt_status (h : HaltReason) : (s.halt h).status = statusHalted h := rfl
@[simp] theorem State.halt_jt (h : HaltReason) : (s.halt h).jt = s.jt := rfl
@[simp] theorem State.halt_cfg (h : HaltReason) : (s.halt h).cfg = s.cfg := rfl
@[simp] theorem State.halt_trace (h : HaltReason) : (s.halt h).trace = s.trace := rfl
@[simp] theorem State.halt_launches (h : HaltReason) : (s.halt h).launches = s.launches := rfl

@[simp] theorem State.raiseFault_a (f : CoreFault) : (s.raiseFault f).a = s.a := rfl
@[simp] theorem State.raiseFault_b (f : CoreFault) : (s.raiseFault f).b = s.b := rfl
@[simp] theorem State.raiseFault_c (f : CoreFault) : (s.raiseFault f).c = s.c := rfl
@[simp] theorem State.raiseFault_pc (f : CoreFault) : (s.raiseFault f).pc = s.pc := rfl
@[simp] theorem State.raiseFault_prog (f : CoreFault) : (s.raiseFault f).prog = s.prog := rfl
@[simp] theorem State.raiseFault_out (f : CoreFault) : (s.raiseFault f).out = s.out := rfl
@[simp] theorem State.raiseFault_status (f : CoreFault) : (s.raiseFault f).status = statusFault f := rfl
@[simp] theorem State.raiseFault_jt (f : CoreFault) : (s.raiseFault f).jt = s.jt := rfl
@[simp] theorem State.raiseFault_cfg (f : CoreFault) : (s.raiseFault f).cfg = s.cfg := rfl
@[simp] theorem State.raiseFault_trace (f : CoreFault) : (s.raiseFault f).trace = s.trace := rfl
@[simp] theorem State.raiseFault_launches (f : CoreFault) : (s.raiseFault f).launches = s.launches := rfl

@[simp] theorem State.loadLaunch_a (l : Launch) : (s.loadLaunch l).a = BitVec.ofInt 64 l.a0 := rfl
@[simp] theorem State.loadLaunch_b (l : Launch) : (s.loadLaunch l).b = BitVec.ofInt 64 l.b0 := rfl
@[simp] theorem State.loadLaunch_c (l : Launch) : (s.loadLaunch l).c = BitVec.ofInt 64 l.c0 := rfl
@[simp] theorem State.loadLaunch_pc (l : Launch) : (s.loadLaunch l).pc = 0 := rfl
@[simp] theorem State.loadLaunch_prog (l : Launch) : (s.loadLaunch l).prog = l.program.map (BitVec.ofInt 3) := rfl
@[simp] theorem State.loadLaunch_out (l : Launch) : (s.loadLaunch l).out = [] := rfl
@[simp] theorem State.loadLaunch_status (l : Launch) : (s.loadLaunch l).status = statusRunning := rfl
@[simp] theorem State.loadLaunch_jt (l : Launch) : (s.loadLaunch l).jt = false := rfl
@[simp] theorem State.loadLaunch_cfg (l : Launch) : (s.loadLaunch l).cfg = l.cfg := rfl
@[simp] theorem State.loadLaunch_trace (l : Launch) : (s.loadLaunch l).trace = [] := rfl
@[simp] theorem State.loadLaunch_launches (l : Launch) : (s.loadLaunch l).launches = s.launches := rfl

@[simp] theorem State.refuseLaunch_a (r : LaunchRefusal) : (s.refuseLaunch r).a = noValue := rfl
@[simp] theorem State.refuseLaunch_b (r : LaunchRefusal) : (s.refuseLaunch r).b = noValue := rfl
@[simp] theorem State.refuseLaunch_c (r : LaunchRefusal) : (s.refuseLaunch r).c = noValue := rfl
@[simp] theorem State.refuseLaunch_pc (r : LaunchRefusal) : (s.refuseLaunch r).pc = noValue := rfl
@[simp] theorem State.refuseLaunch_prog (r : LaunchRefusal) : (s.refuseLaunch r).prog = s.prog := rfl
@[simp] theorem State.refuseLaunch_out (r : LaunchRefusal) : (s.refuseLaunch r).out = [] := rfl
@[simp] theorem State.refuseLaunch_status (r : LaunchRefusal) : (s.refuseLaunch r).status = statusRefused r := rfl
@[simp] theorem State.refuseLaunch_jt (r : LaunchRefusal) : (s.refuseLaunch r).jt = false := rfl
@[simp] theorem State.refuseLaunch_cfg (r : LaunchRefusal) : (s.refuseLaunch r).cfg = s.cfg := rfl
@[simp] theorem State.refuseLaunch_trace (r : LaunchRefusal) : (s.refuseLaunch r).trace = [] := rfl
@[simp] theorem State.refuseLaunch_launches (r : LaunchRefusal) : (s.refuseLaunch r).launches = s.launches := rfl

/-! `writeReg` changes one register. -/

@[simp] theorem State.writeReg_a_a (v : Word) : (s.writeReg .a v).a = v := rfl
@[simp] theorem State.writeReg_a_b (v : Word) : (s.writeReg .a v).b = s.b := rfl
@[simp] theorem State.writeReg_a_c (v : Word) : (s.writeReg .a v).c = s.c := rfl
@[simp] theorem State.writeReg_b_a (v : Word) : (s.writeReg .b v).a = s.a := rfl
@[simp] theorem State.writeReg_b_b (v : Word) : (s.writeReg .b v).b = v := rfl
@[simp] theorem State.writeReg_b_c (v : Word) : (s.writeReg .b v).c = s.c := rfl
@[simp] theorem State.writeReg_c_a (v : Word) : (s.writeReg .c v).a = s.a := rfl
@[simp] theorem State.writeReg_c_b (v : Word) : (s.writeReg .c v).b = s.b := rfl
@[simp] theorem State.writeReg_c_c (v : Word) : (s.writeReg .c v).c = v := rfl
@[simp] theorem State.writeReg_pc (r : Reg) (v : Word) : (s.writeReg r v).pc = s.pc := by cases r <;> rfl
@[simp] theorem State.writeReg_prog (r : Reg) (v : Word) : (s.writeReg r v).prog = s.prog := by cases r <;> rfl
@[simp] theorem State.writeReg_out (r : Reg) (v : Word) : (s.writeReg r v).out = s.out := by cases r <;> rfl
@[simp] theorem State.writeReg_status (r : Reg) (v : Word) : (s.writeReg r v).status = s.status := by cases r <;> rfl
@[simp] theorem State.writeReg_jt (r : Reg) (v : Word) : (s.writeReg r v).jt = s.jt := by cases r <;> rfl
@[simp] theorem State.writeReg_cfg (r : Reg) (v : Word) : (s.writeReg r v).cfg = s.cfg := by cases r <;> rfl
@[simp] theorem State.writeReg_trace (r : Reg) (v : Word) : (s.writeReg r v).trace = s.trace := by cases r <;> rfl
@[simp] theorem State.writeReg_launches (r : Reg) (v : Word) : (s.writeReg r v).launches = s.launches := by cases r <;> rfl

@[simp] theorem State.readReg_a : s.readReg .a = s.a := rfl
@[simp] theorem State.readReg_b : s.readReg .b = s.b := rfl
@[simp] theorem State.readReg_c : s.readReg .c = s.c := rfl

/-- A register reads as written, and no other register changes (spec/10_state.md R24). -/
theorem State.readReg_writeReg (r r' : Reg) (v : Word) :
    (s.writeReg r v).readReg r' = if r' = r then v else s.readReg r' := by
  cases r <;> cases r' <;> rfl

/-! The ends of a run, as record updates (spec/10_state.md R33). -/

theorem State.raiseFault_eq (f : CoreFault) : s.raiseFault f = { s with status := statusWord 2 3 f.code } := rfl
theorem State.halt_eq (h : HaltReason) : s.halt h = { s with status := statusWord 2 h.code 0 } := rfl

/-! The advance and the end of an instruction. -/

theorem State.advance_eq : s.advance = { s with pc := if s.jt then s.pc else s.pc + 2 } := by
  obtain ⟨_, _, _, _, _, _, _, jt, _, _, _⟩ := s; cases jt <;> rfl

/-- Everything `retire` does: the advance unless the jump-taken flag is set, and that flag is clear. -/
theorem State.retire_eq : s.retire = { s with pc := if s.jt then s.pc else s.pc + 2, jt := false } := by
  simp [State.retire, State.advance_eq, State.clearJt]

@[simp] theorem State.retire_a : s.retire.a = s.a := by rw [State.retire_eq]
@[simp] theorem State.retire_b : s.retire.b = s.b := by rw [State.retire_eq]
@[simp] theorem State.retire_c : s.retire.c = s.c := by rw [State.retire_eq]
@[simp] theorem State.retire_pc : s.retire.pc = if s.jt then s.pc else s.pc + 2 := by rw [State.retire_eq]
@[simp] theorem State.retire_prog : s.retire.prog = s.prog := by rw [State.retire_eq]
@[simp] theorem State.retire_out : s.retire.out = s.out := by rw [State.retire_eq]
@[simp] theorem State.retire_status : s.retire.status = s.status := by rw [State.retire_eq]
@[simp] theorem State.retire_jt : s.retire.jt = false := by rw [State.retire_eq]
@[simp] theorem State.retire_cfg : s.retire.cfg = s.cfg := by rw [State.retire_eq]
@[simp] theorem State.retire_trace : s.retire.trace = s.trace := by rw [State.retire_eq]
@[simp] theorem State.retire_launches : s.retire.launches = s.launches := by rw [State.retire_eq]

/-! The trace stage changes the trace stream only. -/

theorem State.traced_eq (op v : ProgWord) :
    s.traced op v = { s with trace := if s.cfg.traceEn then s.trace ++ [s.traceRecord op v] else s.trace } := by
  unfold State.traced; split <;> rfl

@[simp] theorem State.traced_a (op v : ProgWord) : (s.traced op v).a = s.a := by rw [State.traced_eq]
@[simp] theorem State.traced_b (op v : ProgWord) : (s.traced op v).b = s.b := by rw [State.traced_eq]
@[simp] theorem State.traced_c (op v : ProgWord) : (s.traced op v).c = s.c := by rw [State.traced_eq]
@[simp] theorem State.traced_pc (op v : ProgWord) : (s.traced op v).pc = s.pc := by rw [State.traced_eq]
@[simp] theorem State.traced_prog (op v : ProgWord) : (s.traced op v).prog = s.prog := by rw [State.traced_eq]
@[simp] theorem State.traced_out (op v : ProgWord) : (s.traced op v).out = s.out := by rw [State.traced_eq]
@[simp] theorem State.traced_status (op v : ProgWord) : (s.traced op v).status = s.status := by rw [State.traced_eq]
@[simp] theorem State.traced_jt (op v : ProgWord) : (s.traced op v).jt = s.jt := by rw [State.traced_eq]
@[simp] theorem State.traced_cfg (op v : ProgWord) : (s.traced op v).cfg = s.cfg := by rw [State.traced_eq]
@[simp] theorem State.traced_trace (op v : ProgWord) : (s.traced op v).trace = if s.cfg.traceEn then s.trace ++ [s.traceRecord op v] else s.trace := by rw [State.traced_eq]
@[simp] theorem State.traced_launches (op v : ProgWord) : (s.traced op v).launches = s.launches := by rw [State.traced_eq]

end Sys2Proof.Machine
end

