-- ==== Sys2Proof/Laws/Ops.lean ====
section
/-! SUPPORT. One lemma per shared operation: everything it can do. -/

namespace Sys2Proof.Machine

/-! ## Operands and the program store -/

/-- A combo operand has no value exactly when it is reserved (spec/30_encoding.md R64). -/
theorem combo_eq_none (o : ComboOperand) (s : State) : combo o s = none ↔ o = .reserved := by
  cases o <;> simp [combo]

/-- The resolver reads registers only (spec/40_sequencer.md R86). -/
theorem combo_congr (o : ComboOperand) {s t : State} (ha : t.a = s.a) (hb : t.b = s.b) (hc : t.c = s.c) :
    combo o t = combo o s := by
  cases o with
  | literal v => rfl
  | register r => cases r <;> simp [combo, State.readReg, *]
  | reserved => rfl

/-- A resolved count is negative exactly when the operand names a negative register: a literal never is
(spec/60_exceptions.md R162). -/
theorem combo_negative {o : ComboOperand} {s : State} {k : Word} (h : combo o s = some k) :
    k.toInt < 0 ↔ countNegative o s = true := by
  cases o with
  | literal v =>
    simp only [combo, Option.some.injEq] at h
    subst h
    have hv := v.isLt
    have : (zext64 v).toInt = v.toNat := by
      rw [BitVec.toInt_eq_toNat_cond]
      simp only [zext64, BitVec.toNat_setWidth]
      split <;> omega
    simp [countNegative, this]
  | register r =>
    simp only [combo, Option.some.injEq] at h
    subst h
    simp [countNegative]
  | reserved => simp [combo] at h

/-- OUT is full exactly when the depth is finite and OUT has that many entries (spec/43_output.md R154). -/
theorem State.outFull_iff {s : State} : s.outFull = true ↔ s.cfg.outDepth = some s.out.length := by
  unfold State.outFull
  split
  · simp_all
  · simp_all [eq_comm]

/-- The depth bound as a fact about a finite depth (spec/43_output.md R154). -/
theorem outWithinDepth_iff {s : State} : OutWithinDepth s ↔ ∀ d, s.cfg.outDepth = some d → s.out.length ≤ d := by
  unfold OutWithinDepth
  cases s.cfg.outDepth <;> simp

/-- A read of the program store answers the word at the index, or faults outside 0 to N-1 (spec/20_memory.md R45). -/
theorem State.memRead_cases (i : Nat) (s : State) :
    (∃ h : i < s.prog.length, s.memRead i = .ok (s.prog[i]'h)) ∨
    (s.prog.length ≤ i ∧ s.memRead i = .error .outsideProgram) := by
  by_cases h : i < s.prog.length
  · exact .inl ⟨h, by simp [State.memRead, h]⟩
  · exact .inr ⟨by omega, by simp [State.memRead, h]⟩

/-- Two states with the same store read the same words. -/
theorem State.memRead_congr {s t : State} (h : t.prog = s.prog) (i : Nat) : t.memRead i = s.memRead i := by
  simp [State.memRead, h]

/-- The bounds check as a fact about indices (spec/40_sequencer.md R81). -/
theorem State.inBounds_iff {s : State} : s.inBounds = true ↔ s.pc.toNat + 1 < s.prog.length := decide_eq_true_iff

/-- Inside the bounds the fetch answers the pair at pc and never faults (spec/40_sequencer.md R82). -/
theorem State.fetch_of_inBounds {s : State} (h : s.inBounds = true) :
    ∃ op v, s.prog[s.pc.toNat]? = some op ∧ s.prog[s.pc.toNat + 1]? = some v ∧ s.fetch = .ok (op, v) := by
  have h1 := State.inBounds_iff.mp h
  have h0 : s.pc.toNat < s.prog.length := by omega
  refine ⟨s.prog[s.pc.toNat], s.prog[s.pc.toNat + 1], by simp [h0], by simp [h1], ?_⟩
  simp [State.fetch, State.memRead, h0, h1]

/-- A pair of words at pc is a pair in bounds, and the fetch answers it. -/
theorem State.fetch_of_words {s : State} {op v : ProgWord} (h0 : s.prog[s.pc.toNat]? = some op)
    (h1 : s.prog[s.pc.toNat + 1]? = some v) : s.inBounds = true ∧ s.fetch = .ok (op, v) := by
  have hlt := (List.getElem?_eq_some_iff.mp h1).1
  refine ⟨State.inBounds_iff.mpr hlt, ?_⟩
  simp [State.fetch, State.memRead, h0, h1]

/-- Placing a pair keeps the form of the store. -/
theorem State.placePair_wf (op v : ProgWord) {s : State} (h : Memory.wf s.prog) :
    Memory.wf (s.placePair op v).prog := by
  unfold State.placePair
  split
  · simpa [Memory.wf] using h
  · simp [Memory.wf]

/-! ## Taking a fault, and the instructions' shared forms -/

/-- The shared form of adv, bdv and cdv answers one of three states. -/
theorem divideInto_cases (dest : Reg) (o : ComboOperand) (s : State) :
    (o = .reserved ∧ divideInto dest o s = .next (s.raiseFault .invalidComboOperand)) ∨
    (∃ k, combo o s = some k ∧ k.toInt < 0 ∧ divideInto dest o s = .next (s.raiseFault .negativeShift)) ∨
    (∃ k, combo o s = some k ∧ 0 ≤ k.toInt ∧
      divideInto dest o s = .next (s.writeReg dest (shiftDiv s.a k)).retire) := by
  unfold divideInto
  cases h : combo o s with
  | none => exact .inl ⟨(combo_eq_none o s).mp h, rfl⟩
  | some k =>
    by_cases hk : k.toInt < 0
    · exact .inr (.inl ⟨k, rfl, hk, by simp [hk]⟩)
    · exact .inr (.inr ⟨k, rfl, by omega, by simp [hk]⟩)

/-- jnz, by its condition (spec/42_control.md R140). -/
theorem execJnz_eq (v : ProgWord) (s : State) :
    execJnz v s = if s.a = 0 then .next s.retire else .next ((s.setPc (zext64 v)).setJt).retire := by
  simp only [execJnz]
  by_cases h : s.a = 0
  · rw [if_neg (by simpa using h), if_pos h]
  · rw [if_pos (by simpa using h), if_neg h]

/-- Everything an instruction can do to the state: raise a fault; write one register and retire; retire (a `jnz` not
taken); set the pc and retire (a taken `jnz`); emit and halt; emit and retire. -/
theorem exec_cases {i : Instr} {s t : State} (h : exec i s = .next t) :
    (∃ f, t = s.raiseFault f) ∨
    (∃ r v, destination i = some r ∧ t = (s.writeReg r v).retire) ∨
    (∃ v, i = .jnz v ∧ s.a = 0 ∧ t = s.retire) ∨
    (∃ v, i = .jnz v ∧ s.a ≠ 0 ∧ t = ((s.setPc (zext64 v)).setJt).retire) ∨
    (∃ o v, i = .out o ∧ s.cfg.outHalts = true ∧ t = (s.emit v).halt .haltOut) ∨
    (∃ o v, i = .out o ∧ s.cfg.outHalts = false ∧ s.outFull = false ∧ t = (s.emit v).retire) := by
  have divide : ∀ dest o, destination i = some dest → divideInto dest o s = .next t →
      (∃ f, t = s.raiseFault f) ∨ (∃ r v, destination i = some r ∧ t = (s.writeReg r v).retire) := by
    intro dest o hd he
    obtain ⟨-, e⟩ | ⟨k, -, -, e⟩ | ⟨k, -, -, e⟩ := divideInto_cases dest o s <;> rw [e] at he <;> cases he
    · exact .inl ⟨_, rfl⟩
    · exact .inl ⟨_, rfl⟩
    · exact .inr ⟨dest, _, hd, rfl⟩
  cases i with
  | adv o => exact (divide .a o rfl h).elim .inl (fun x => .inr (.inl x))
  | bdv o => exact (divide .b o rfl h).elim .inl (fun x => .inr (.inl x))
  | cdv o => exact (divide .c o rfl h).elim .inl (fun x => .inr (.inl x))
  | bxl v => cases h; exact .inr (.inl ⟨.b, _, rfl, rfl⟩)
  | bxc v => cases h; exact .inr (.inl ⟨.b, _, rfl, rfl⟩)
  | bst o =>
    simp only [exec, execBst] at h
    split at h <;> cases h
    · exact .inl ⟨_, rfl⟩
    · exact .inr (.inl ⟨.b, _, rfl, rfl⟩)
  | jnz v =>
    simp only [exec, execJnz] at h
    split at h <;> cases h
    · exact .inr (.inr (.inr (.inl ⟨v, rfl, by assumption, rfl⟩)))
    · exact .inr (.inr (.inl ⟨v, rfl, Decidable.of_not_not (by assumption), rfl⟩))
  | out o =>
    simp only [exec, execOut] at h
    split at h
    · cases h; exact .inl ⟨_, rfl⟩
    · split at h
      · cases h; exact .inr (.inr (.inr (.inr (.inl ⟨o, _, rfl, by assumption, rfl⟩))))
      · split at h <;> cases h
        · exact .inl ⟨_, rfl⟩
        · exact .inr (.inr (.inr (.inr (.inr ⟨o, _, rfl, by simp_all, by simp_all, rfl⟩))))

end Sys2Proof.Machine
end

