-- ==== Sys2Proof/Laws/PerInstr.lean ====
section
/-! SUPPORT. Facts about every instruction as syntax, one lemma per constructor. -/

namespace Sys2Proof.Laws.TwoWords

/-- An instruction is two words, the opcode word first (spec/30_encoding.md R60), and its packed value is a 6-bit
number (R61). -/
def Statement (i : Instr) : Prop :=
  (encode i).length = 2 ∧ (encode i)[0]? = some i.opcode ∧ (encode i)[1]? = some i.operand ∧ i.packed < 64

theorem packed_lt (i : Instr) : i.packed < 64 := by
  have h1 := i.opcode.isLt
  have h2 := i.operand.isLt
  unfold Instr.packed
  omega

theorem adv (o : ComboOperand) : Statement (.adv o) := ⟨rfl, rfl, rfl, packed_lt _⟩
theorem bxl (v : ProgWord) : Statement (.bxl v) := ⟨rfl, rfl, rfl, packed_lt _⟩
theorem bst (o : ComboOperand) : Statement (.bst o) := ⟨rfl, rfl, rfl, packed_lt _⟩
theorem jnz (v : ProgWord) : Statement (.jnz v) := ⟨rfl, rfl, rfl, packed_lt _⟩
theorem bxc (v : ProgWord) : Statement (.bxc v) := ⟨rfl, rfl, rfl, packed_lt _⟩
theorem out (o : ComboOperand) : Statement (.out o) := ⟨rfl, rfl, rfl, packed_lt _⟩
theorem bdv (o : ComboOperand) : Statement (.bdv o) := ⟨rfl, rfl, rfl, packed_lt _⟩
theorem cdv (o : ComboOperand) : Statement (.cdv o) := ⟨rfl, rfl, rfl, packed_lt _⟩

end Sys2Proof.Laws.TwoWords
end

