-- ==== Sys2Proof/Laws/Step.lean ====
section
/-! SUPPORT. Run start and the step: everything they can do, once. -/

namespace Sys2Proof.Machine

/-! ## STATUS -/

/-- Each word the transitions of spec/10_state.md R33 write is one of the values of `statusProduced`. -/
theorem statusProduced_running : statusProduced statusRunning = true := by decide
theorem statusProduced_halted (h : HaltReason) : statusProduced (statusHalted h) = true := by cases h <;> decide
theorem statusProduced_fault (f : CoreFault) : statusProduced (statusFault f) = true := by cases f <;> decide
theorem statusProduced_refused (r : LaunchRefusal) : statusProduced (statusRefused r) = true := by
  cases r <;> simp only [statusRefused, LaunchRefusal.code] <;> decide

/-- A produced STATUS has no reserved field (R32). -/
theorem statusLegal_of_produced {w : Status} (h : statusProduced w = true) : statusLegal w = true := by
  simp only [statusProduced, Bool.and_eq_true] at h
  exact h.1

/-- The STATE and REASON fields of the words that R33 writes. -/
@[simp] theorem statusState_running : statusState statusRunning = 1 := by decide
@[simp] theorem statusReason_running : statusReason statusRunning = 0 := by decide
@[simp] theorem statusState_halted (h : HaltReason) : statusState (statusHalted h) = 2 := by cases h <;> decide
@[simp] theorem statusReason_halted (h : HaltReason) : statusReason (statusHalted h) = h.code := by cases h <;> decide
@[simp] theorem statusState_fault (f : CoreFault) : statusState (statusFault f) = 2 := by cases f <;> decide
@[simp] theorem statusReason_fault (f : CoreFault) : statusReason (statusFault f) = 3 := by cases f <;> decide
@[simp] theorem statusCode_fault (f : CoreFault) : statusCode (statusFault f) = f.code := by cases f <;> decide
@[simp] theorem statusState_refused (r : LaunchRefusal) : statusState (statusRefused r) = 2 := by
  cases r <;> simp only [statusRefused, LaunchRefusal.code] <;> decide
@[simp] theorem statusReason_refused (r : LaunchRefusal) : statusReason (statusRefused r) = 4 := by
  cases r <;> simp only [statusRefused, LaunchRefusal.code] <;> decide
@[simp] theorem statusCode_refused (r : LaunchRefusal) : statusCode (statusRefused r) = r.code := by
  cases r <;> simp only [statusRefused, LaunchRefusal.code] <;> decide

/-! ## The two kinds of step -/

/-- With STATE = RUNNING the step is the running step (spec/40_sequencer.md R99). -/
theorem step_of_running {s : State} (h : Running s) : step s = runningStep exec s := by
  obtain ⟨h1, h2⟩ := h
  simp [step, cycle, h2, runStateOf, h1]

/-- Between runs the step is the host's turn (spec/60_exceptions.md R176). -/
theorem step_of_atRest {s : State} (h : AtRest s) : step s = hostTurn s := by
  obtain ⟨h1 | h1, h2⟩ := h <;> simp [step, cycle, h2, runStateOf, h1]

/-- A STATUS without a reserved field is that of a running machine or of one at rest. -/
theorem running_or_atRest {s : State} (h : statusLegal s.status = true) : Running s ∨ AtRest s := by
  have h3 : statusState s.status ≠ 3 := by
    simp only [statusLegal, Bool.and_eq_true, decide_eq_true_eq] at h
    exact h.1.1
  have all : ∀ x : BitVec 2, x ≠ 3 → x = 1 ∨ x = 0 ∨ x = 2 := by decide
  rcases all _ h3 with e | e | e
  · exact .inl ⟨e, h⟩
  · exact .inr ⟨.inl e, h⟩
  · exact .inr ⟨.inr e, h⟩

/-- A step that answers a next state began with no reserved field in STATUS. -/
theorem legal_of_step {s t : State} (h : step s = .next t) : statusLegal s.status = true := by
  by_contra hl
  simp [step, cycle, hl] at h

/-! ## The running step -/

/-- The state an instruction sees: the jump-taken flag cleared and its trace record sent. -/
def State.fetched (op v : ProgWord) (s : State) : State := s.clearJt.traced op v

@[simp] theorem State.fetched_a (op v : ProgWord) (s : State) : (s.fetched op v).a = s.a := by simp [State.fetched]
@[simp] theorem State.fetched_b (op v : ProgWord) (s : State) : (s.fetched op v).b = s.b := by simp [State.fetched]
@[simp] theorem State.fetched_c (op v : ProgWord) (s : State) : (s.fetched op v).c = s.c := by simp [State.fetched]
@[simp] theorem State.fetched_pc (op v : ProgWord) (s : State) : (s.fetched op v).pc = s.pc := by simp [State.fetched]
@[simp] theorem State.fetched_prog (op v : ProgWord) (s : State) : (s.fetched op v).prog = s.prog := by simp [State.fetched]
@[simp] theorem State.fetched_out (op v : ProgWord) (s : State) : (s.fetched op v).out = s.out := by simp [State.fetched]
@[simp] theorem State.fetched_status (op v : ProgWord) (s : State) : (s.fetched op v).status = s.status := by simp [State.fetched]
@[simp] theorem State.fetched_jt (op v : ProgWord) (s : State) : (s.fetched op v).jt = false := by simp [State.fetched]
@[simp] theorem State.fetched_cfg (op v : ProgWord) (s : State) : (s.fetched op v).cfg = s.cfg := by simp [State.fetched]
@[simp] theorem State.fetched_launches (op v : ProgWord) (s : State) : (s.fetched op v).launches = s.launches := by simp [State.fetched]
@[simp] theorem State.fetched_trace (op v : ProgWord) (s : State) :
    (s.fetched op v).trace = if s.cfg.traceEn then s.trace ++ [s.traceRecord op v] else s.trace := by
  rw [State.fetched, State.traced_trace]; rfl

/-- A running step on a pair inside the program executes that pair. -/
theorem runningStep_of_words (ex : Instr → State → Host.Outcome State Fault Refusal) {s : State} {op v : ProgWord}
    (h0 : s.prog[s.pc.toNat]? = some op) (h1 : s.prog[s.pc.toNat + 1]? = some v) :
    runningStep ex s = ex (decodePair op v) (s.fetched op v) := by
  obtain ⟨hb, hf⟩ := State.fetch_of_words (s := s.clearJt) h0 h1
  simp [runningStep, hb, hf, State.fetched]

/-- A running step outside the bounds is HALT_BOUNDS (spec/40_sequencer.md R81). -/
theorem runningStep_of_outside (ex : Instr → State → Host.Outcome State Fault Refusal) {s : State}
    (h : s.prog.length ≤ s.pc.toNat + 1) : runningStep ex s = .next (s.clearJt.halt .haltBounds) := by
  have : s.clearJt.inBounds = false := by
    rw [Bool.eq_false_iff, Ne, State.inBounds_iff]
    simp only [State.clearJt_pc, State.clearJt_prog]
    omega
  simp [runningStep, this]

/-- Either the pair at pc is inside the program, or the bounds check fails. -/
theorem words_or_outside (s : State) :
    (∃ op v, s.prog[s.pc.toNat]? = some op ∧ s.prog[s.pc.toNat + 1]? = some v) ∨
      s.prog.length ≤ s.pc.toNat + 1 := by
  by_cases h : s.pc.toNat + 1 < s.prog.length
  · have h0 : s.pc.toNat < s.prog.length := by omega
    exact .inl ⟨s.prog[s.pc.toNat], s.prog[s.pc.toNat + 1], by simp [h0], by simp [h]⟩
  · exact .inr (by omega)

/-- Everything a running step can answer. -/
theorem running_step_cases {s t : State} (h : Running s) (hs : step s = .next t) :
    (s.prog.length ≤ s.pc.toNat + 1 ∧ t = s.clearJt.halt .haltBounds) ∨
    (∃ op v, s.prog[s.pc.toNat]? = some op ∧ s.prog[s.pc.toNat + 1]? = some v ∧
      exec (decodePair op v) (s.fetched op v) = .next t) := by
  rw [step_of_running h] at hs
  obtain ⟨op, v, h0, h1⟩ | ho := words_or_outside s
  · rw [runningStep_of_words exec h0 h1] at hs
    exact .inr ⟨op, v, h0, h1, hs⟩
  · rw [runningStep_of_outside exec ho] at hs
    cases hs
    exact .inl ⟨ho, rfl⟩

/-! ## The host's turn -/

/-- Everything the machine can answer between runs. -/
theorem atRest_step_cases {s t : State} (h : AtRest s) (hs : step s = .next t) :
    (s.launches = [] ∧ t = s) ∨
    (∃ l rest, s.launches = l :: rest ∧ configValid l.cfg = true ∧
      t = ({ s with launches := rest } : State).runStart l) := by
  rw [step_of_atRest h] at hs
  unfold hostTurn at hs
  split at hs
  · cases hs; exact .inl ⟨by assumption, rfl⟩
  · split at hs
    · cases hs; exact .inr ⟨_, _, by assumption, by assumption, rfl⟩
    · cases hs

/-- A run start either refuses or loads (spec/40_sequencer.md R91). -/
theorem runStart_cases (l : Launch) (s : State) :
    (∃ r, launchCheck l = some r ∧ s.runStart l = s.refuseLaunch r) ∨
    (launchCheck l = none ∧ s.runStart l = s.loadLaunch l) := by
  unfold State.runStart
  cases h : launchCheck l with
  | some r => exact .inl ⟨r, rfl, rfl⟩
  | none => exact .inr ⟨rfl, rfl⟩

/-- A launch that passes the checks fits the store: N ≤ PROG_MAX. -/
theorem progMax_of_launchCheck {l : Launch} (h : launchCheck l = none) : l.program.length ≤ l.cfg.progMax := by
  by_contra hn
  simp [launchCheck, show l.cfg.progMax < l.program.length by omega] at h

/-- A loaded store has the store's form. -/
theorem loadLaunch_wf {l : Launch} (s : State) (hv : configValid l.cfg = true) (h : launchCheck l = none) :
    Memory.wf (s.loadLaunch l).prog := by
  have h1 := progMax_of_launchCheck h
  have h2 : l.cfg.progMax ≤ 2 ^ 63 := by
    simp only [configValid, Bool.and_eq_true, decide_eq_true_eq] at hv
    exact hv.2
  simp only [State.loadLaunch_prog, Memory.wf, List.length_map]
  omega

/-- The store after reset has the store's form. -/
theorem reset_wf : Memory.wf State.reset.prog := by decide

/-- No instruction writes the program store, the configuration or the pending run starts (spec/20_memory.md R41). -/
theorem exec_keeps_store {i : Instr} {s t : State} (h : exec i s = .next t) :
    t.prog = s.prog ∧ t.cfg = s.cfg ∧ t.launches = s.launches ∧ t.trace = s.trace := by
  obtain ⟨f, rfl⟩ | ⟨r, v, -, rfl⟩ | ⟨v, -, -, rfl⟩ | ⟨v, -, -, rfl⟩ | ⟨o, v, -, -, rfl⟩ | ⟨o, v, -, -, -, rfl⟩ :=
    exec_cases h <;> simp

/-- Every step keeps the form of the program store. -/
theorem step_wf {s t : State} (h : Memory.wf s.prog) (hs : step s = .next t) : Memory.wf t.prog := by
  rcases running_or_atRest (legal_of_step hs) with hr | hr
  · obtain ⟨-, rfl⟩ | ⟨op, v, -, -, he⟩ := running_step_cases hr hs
    · simpa using h
    · rw [(exec_keeps_store he).1]; simpa using h
  · obtain ⟨-, rfl⟩ | ⟨l, rest, -, hv, rfl⟩ := atRest_step_cases hr hs
    · exact h
    · obtain ⟨r, -, e⟩ | ⟨hc, e⟩ := runStart_cases l { s with launches := rest } <;> rw [e]
      · simpa using h
      · exact loadLaunch_wf _ hv hc

end Sys2Proof.Machine
end

