-- ==== Sys2Proof/Laws/Run.lean ====
section
/-! SUPPORT. Runs under fuel, one step at a time. -/

namespace Sys2Proof.Machine

/-- DONE as a fact about the STATE field (spec/10_state.md R32). -/
theorem State.isDone_iff {s : State} : s.isDone = true ↔ statusState s.status = 2 := by
  have all : ∀ w : Status, decide (runStateOf w = some .done) = true ↔ statusState w = 2 := by decide
  exact all s.status

/-- An ended run stays ended under any fuel. -/
theorem runFuel_of_done (n : Nat) {s : State} (h : statusState s.status = 2) : runFuel n s = .ended s := by
  cases n <;> simp [runFuel, State.isDone_iff.mpr h]

/-- With no fuel and no end, no end was reached (spec/40_sequencer.md R96). -/
theorem runFuel_zero {s : State} (h : statusState s.status ≠ 2) : runFuel 0 s = .noEnd s := by
  simp [runFuel, Bool.eq_false_iff.mpr (mt State.isDone_iff.mp h)]

/-- A run that has not ended goes on from the next state. -/
theorem runFuel_succ (n : Nat) {s t : State} (h : statusState s.status ≠ 2) (hs : step s = .next t) :
    runFuel (n + 1) s = runFuel n t := by
  simp [runFuel, Bool.eq_false_iff.mpr (mt State.isDone_iff.mp h), hs]

end Sys2Proof.Machine
end

