-- ==== Sys2Proof/Tests/Slice0.lean ====
section
/-! SUPPORT. Tests on fixed values. The expected results are those of spec/95_test_vectors.md (named in the comments) or
worked out by hand from the rule named; and, for each statement with hypotheses, a witness that meets them. -/

namespace Sys2Proof.Tests

open Sys2Proof.Machine

/-! ## Well-formedness: the one check, at each instruction that makes it -/

theorem test_literal4_is_no_immediate :
    (Instr.adv (.literal 4)).WellFormed = false ∧ (Instr.bst (.literal 5)).WellFormed = false ∧
    (Instr.out (.literal 6)).WellFormed = false ∧ (Instr.bdv (.literal 7)).WellFormed = false ∧
    (Instr.cdv (.literal 4)).WellFormed = false := by decide

theorem test_wellformed_forms :
    (Instr.adv (.literal 3)).WellFormed = true ∧ (Instr.bxl 7).WellFormed = true ∧ (Instr.bst .reserved).WellFormed = true ∧
    (Instr.jnz 7).WellFormed = true ∧ (Instr.bxc 7).WellFormed = true ∧ (Instr.out (.register .a)).WellFormed = true ∧
    (Instr.bdv (.register .b)).WellFormed = true ∧ (Instr.cdv (.register .c)).WellFormed = true := by decide

/-! ## Decoding, from the packed values of spec/30_encoding.md R65, bit by bit -/

theorem test_decode_adv : decodeTableWord 8 0b000001 = some (.adv (.literal 1)) := by decide
theorem test_decode_bxl : decodeTableWord 8 0b001111 = some (.bxl 7) := by decide
theorem test_decode_bst : decodeTableWord 8 0b010110 = some (.bst (.register .c)) := by decide
theorem test_decode_jnz : decodeTableWord 8 0b011000 = some (.jnz 0) := by decide
theorem test_decode_bxc : decodeTableWord 8 0b100111 = some (.bxc 7) := by decide
theorem test_decode_out : decodeTableWord 8 0b101100 = some (.out (.register .a)) := by decide
theorem test_decode_bdv : decodeTableWord 8 0b110101 = some (.bdv (.register .b)) := by decide
theorem test_decode_cdv : decodeTableWord 8 0b111111 = some (.cdv .reserved) := by decide
theorem test_decode_rejects :
    decodeTableWord 8 64 = none ∧ decode [0] = .error .incompletePair ∧ decodeHost [0, 8] = .error (.outsideWord 8) := by
  decide

/-! ## One step of each instruction -/

/-- A running machine with A, B, C and a program, at pc 0. -/
def running (p : List ProgWord) (a b c : Int) : State :=
  { State.reset with
    a := BitVec.ofInt 64 a
    b := BitVec.ofInt 64 b
    c := BitVec.ofInt 64 c
    prog := p
    status := statusRunning }

/-- The same machine with OUT_HALTS = false. -/
def goingOn (s : State) : State := { s with cfg := { s.cfg with outHalts := false } }

/-- The state a step or an instruction answers. -/
def after (o : Host.Outcome State Fault Refusal) : Option State :=
  match o with
  | .next t => some t
  | _ => none

/-- A, B, C, pc and STATUS after one step. -/
def seen (s : State) : Option (Int × Int × Int × Nat × Nat) :=
  (after (step s)).map (fun t => (t.a.toInt, t.b.toInt, t.c.toInt, t.pc.toNat, t.status.toNat))

/-- TV-ADV3: floor, not truncation. -/
theorem test_adv_floors : seen (running [0, 1] (-9) 0 0) = some (-5, 0, 0, 2, 1) := by decide
/-- TV-ADV12: a negative count is NegativeShift, and nothing is written. -/
theorem test_adv_negative_count : seen (running [0, 5] 100 (-2) 0) = some (100, -2, 0, 0, 78) := by decide
/-- TV-BXL3. -/
theorem test_bxl_keeps_sign : seen (running [1, 5] 0 (-1) 0) = some (0, -6, 0, 2, 1) := by decide
/-- TV-BXL1: literal 7 is no combo operand. -/
theorem test_bxl_literal7 : seen (running [1, 7] 0 5 0) = some (0, 2, 0, 2, 1) := by decide
/-- TV-BST3. -/
theorem test_bst_negative : seen (running [2, 5] 0 (-9) 0) = some (0, 7, 0, 2, 1) := by decide
/-- TV-CMB8. -/
theorem test_bst_reserved : seen (running [2, 7] 0 0 0) = some (0, 0, 0, 0, 46) := by decide
/-- W6: no advance after a taken jump. -/
theorem test_jnz_taken : seen (running [3, 0, 5, 3] 1 0 0) = some (1, 0, 0, 0, 1) := by decide
/-- TV-JNZ1, first step. -/
theorem test_jnz_not_taken : seen (running [3, 0, 1, 7] 0 0 0) = some (0, 0, 0, 2, 1) := by decide
/-- TV-BXC1: operand 7 is ignored. -/
theorem test_bxc_ignores_operand : seen (running [4, 7] 0 6 3) = some (0, 5, 3, 2, 1) := by decide
/-- TV-BXC3. -/
theorem test_bxc_extremes :
    seen (running [4, 0] 0 (-9223372036854775808) 9223372036854775807) =
      some (0, -1, 9223372036854775807, 2, 1) := by decide
/-- TV-OUT3: HALT_OUT, the pc stays, and -3 mod 8 = 5 is emitted. -/
theorem test_out_halts :
    seen (running [5, 4] (-3) 0 0) = some (-3, 0, 0, 0, 10) ∧
    (after (step (running [5, 4] (-3) 0 0))).map (·.out) = some [5] := by decide
/-- TV-OUT2 (first step) and TV-OUT8 (third): OUT_HALTS = false advances; a full OUT overflows and keeps its entries. -/
theorem test_out_goes_on :
    seen (goingOn (running [5, 0, 5, 1, 5, 4] 10 0 0)) = some (10, 0, 0, 2, 1) ∧
    (after (step { goingOn (running [5, 3] 0 0 0) with
      out := [1, 2], cfg := { outHalts := false, outDepth := some 2, progMax := 8, traceEn := false } })).map
        (fun t => (t.out, t.status.toNat, t.pc.toNat)) = some ([1, 2], 110, 0) := by decide
/-- TV-BDV1: the old B is the count. -/
theorem test_bdv_old_value : seen (running [6, 5] 64 3 0) = some (64, 8, 0, 2, 1) := by decide
/-- TV-BDV5. -/
theorem test_bdv_reserved : seen (running [6, 7] 5 0 0) = some (5, 0, 0, 0, 46) := by decide
/-- TV-CDV3: a huge count. -/
theorem test_cdv_huge_count :
    seen (running [7, 6] (-5) 0 9223372036854775807) = some (-5, 0, -1, 2, 1) := by decide
/-- TV-CDV2: a count of 63. -/
theorem test_cdv_count63 :
    seen (running [7, 6] 9223372036854775807 0 63) = some (9223372036854775807, 0, 0, 2, 1) := by decide

/-! ## The sequencer, run start and the host's reads -/

/-- TV-SEQ2: N = 1 halts at once; P5, second step: an odd pc executes the pair there. -/
theorem test_bounds_and_odd_pc :
    seen (running [5] 1 2 3) = some (1, 2, 3, 0, 6) ∧
    seen { running [3, 1, 2, 4, 5, 0] 5 0 0 with pc := 1 } = some (5, 2, 0, 3, 1) := by decide

/-- The trace record of P1, step 1. -/
theorem test_trace_record :
    (after (step { running [0, 1, 5, 4, 3, 0] 729 0 0 with cfg := { Config.initial with traceEn := true } })).map
      (·.trace) = some [{ a := 729, b := 0, c := 0, pc := 0, op := 0, operand := 1 }] := by decide

/-- A run start of the host, from power-on reset. -/
def launched (progMax : Nat) (a b c : Int) (p : List Int) : State :=
  State.reset.withLaunch { cfg := { Config.initial with progMax := progMax }, a0 := a, b0 := b, c0 := c, program := p }

/-- W3, run start. -/
theorem test_launch_loads :
    seen (launched 8 9 0 0 [0, 1]) = some (9, 0, 0, 0, 1) ∧
    (after (step (launched 8 9 0 0 [0, 1]))).map (·.prog) = some [0, 1] := by decide

/-- TV-REF2, TV-REF4, TV-REF5, TV-REF6 and TV-REF7: the codes and their priority. -/
theorem test_launch_refusals :
    (after (step (launched 8 0 0 0 [0, 1, 3, 9]))).map (·.status.toNat) = some 50 ∧
    (after (step (launched 8 0 0 (-9223372036854775809) [0, 1]))).map (·.status.toNat) = some 82 ∧
    (after (step (launched 2 0 0 0 [0, 1, 0, 1]))).map (·.status.toNat) = some 114 ∧
    (after (step (launched 1 1180591620717411303424 0 0 [9, 0]))).map (·.status.toNat) = some 114 ∧
    (after (step (launched 8 1180591620717411303424 0 0 [9, 0]))).map (·.status.toNat) = some 50 := by decide

/-- R36: no value held before a run start; R37: the frozen pc after W3; R163: the frozen state after TV-ADV12, k = -2. -/
theorem test_host_reads :
    (∃ v, hostReadReg .a State.reset = .next { value := v, held := false }) ∧
    hostReadPc { running [0, 1] 4 0 0 with pc := 2, status := statusHalted .haltBounds } =
      .next { value := 2, held := true } ∧
    (after (step (running [0, 5] 100 (-2) 0))).map (fun t => (hostResult t, faultInfo t)) =
      some (some (.faultCode 2), some { pc := 0, op := 0, operand := 5, k := some (-2) }) :=
  ⟨⟨_, rfl⟩, rfl, by decide⟩

/-- A placed instruction is the first to run after reset; every row of the table, with operand 0. -/
theorem test_first_instruction :
    [0, 8, 16, 24, 32, 40, 48, 56].all (fun w =>
      (after (step (State.reset.withFetchWord 8 w))).isSome &&
      decide (instrAtPc (State.reset.withFetchWord 8 w) = decodeTableWord 8 w)) = true := by decide

/-- P1's second line, with its comment, and the word list of R72. -/
theorem test_assembler :
    assembleLine ['o', 'u', 't', ' ', '4', ' ', ' ', ';', ' ', 'e'] = some [5, 4] ∧
    assembleLine ['n', 'o', 'p'] = none ∧ wordList ['0', ',', '1', ',', '-', '5'] = some [0, 1, -5] ∧
    disassemble [0, 1, 5, 4, 3] = [.adv (.literal 1), .out (.register .a)] := by decide

/-- P1's word list; and the model's choices of notes/assumptions/14.md: spaces around items, a space inside an integer, an
empty item, the empty list. -/
theorem test_word_list :
    wordList ['0', ',', '1', ',', '5', ',', '4', ',', '3', ',', '0'] = some [0, 1, 5, 4, 3, 0] ∧
    wordList ['0', ',', ' ', '1', ' '] = some [0, 1] ∧ wordList ['1', ' ', '2'] = none ∧
    wordList ['0', ',', ',', '1'] = none ∧ wordList [] = some [] := by decide

/-! ## Witnesses: the hypotheses of the statements can be met, clause by clause -/

/-- A machine in the middle of a run with OUT_HALTS = false, OUT full, tracing on. -/
def full : State :=
  { running [5, 3] 0 0 0 with
    out := [1, 2], cfg := { outHalts := false, outDepth := some 2, progMax := 8, traceEn := true } }

/-- An ended run, DONE after HALT_BOUNDS, and one after NegativeShift. -/
def halted : State := { running [0, 1] 4 0 0 with pc := 2, status := statusHalted .haltBounds }
def faulted : State := { running [0, 5] 100 (-2) 0 with status := statusFault .negativeShift }
def haltedOut : State := { running [5, 4] (-3) 0 0 with out := [5], status := statusHalted .haltOut }
def refused : State := State.reset.refuseLaunch .programTooLong

theorem witness_invariant_reset : State.reset.Inv := by decide
theorem witness_invariant_running : (running [7, 6] (-5) (-1) 3).Inv := by decide
theorem witness_invariant_zero_a : (running [5, 3] 0 0 0).Inv := by decide
theorem witness_invariant_full : full.Inv := by decide
theorem witness_invariant_halted : halted.Inv ∧ haltedOut.Inv := ⟨by decide, by decide⟩
theorem witness_invariant_faulted : faulted.Inv := by decide
theorem witness_invariant_refused : refused.Inv := by decide

/-- DecodeInvertsEncode, DecoderRejectsOnlyByName: a well-formed instruction at each end of the operand range, a short
sequence, and sequences with and without a bad word. -/
theorem witness_encoding :
    (Instr.cdv .reserved).WellFormed = true ∧ (Instr.adv (.literal 0)).WellFormed = true ∧ ([] : List ProgWord).length < 2 ∧
    ([7] : List ProgWord).length < 2 ∧ (∃ n ∈ [0, -1], ¬ ((0 : Int) ≤ n ∧ n ≤ 7)) := by decide

/-- ReservedPairCensus: both branches of its condition, and in the second a state it asks for and its next state. -/
theorem witness_census :
    ((7 : ProgWord), (7 : ProgWord)) ∈ [((0 : ProgWord), (7 : ProgWord)), (2, 7), (5, 7), (6, 7), (7, 7)] ∧
    ((4 : ProgWord), (7 : ProgWord)) ∉ [((0 : ProgWord), (7 : ProgWord)), (2, 7), (5, 7), (6, 7), (7, 7)] ∧
    statusReason (running [4, 7] 0 6 3).status ≠ 3 ∧
    (after (exec (decodePair 4 7) (running [4, 7] 0 6 3))).isSome = true := by decide

/-- ArithmeticPrimitives, ShiftIsFloorDivision: positive divisors, shifts at 0 and 63, counts 0, 63 and 2^63 - 1. -/
theorem witness_arithmetic :
    (0 : Int) < 1 ∧ (0 : Nat) ≤ 63 ∧ (63 : Nat) ≤ 63 ∧ (63 : Nat) < 64 ∧ 0 ≤ (0 : Word).toInt ∧ 63 ≤ (63 : Word).toInt ∧
    63 ≤ (9223372036854775807 : Word).toInt := by decide

/-- AdvResult, BdvResult, CdvResult: operand 7; a count of -1; counts 0 and 2^63 - 1, with the jump-taken flag clear. -/
theorem witness_shift_results :
    (7 : ProgWord) = 7 ∧ combo (ComboOperand.ofWord 5) (running [] 0 (-1) 0) = some (-1) ∧ (-1 : Word).toInt < 0 ∧
    combo (ComboOperand.ofWord 0) (running [] 0 0 0) = some 0 ∧ 0 ≤ (0 : Word).toInt ∧
    combo (ComboOperand.ofWord 6) (running [] 0 0 9223372036854775807) = some 9223372036854775807 ∧
    0 ≤ (9223372036854775807 : Word).toInt ∧ (running [] 0 0 0).jt = false := by decide

/-- BxlResult, BxcResult, BstResult, BxlTwiceRestoresB: the flag clear, operand 7, a negative resolved value. -/
theorem witness_bit_results :
    (running [] 0 (-1) 0).jt = false ∧ combo (ComboOperand.ofWord 5) (running [] 0 (-1) 0) = some (-1) ∧
    (3 : Nat) ≤ 3 := by decide

/-- JnzResult: A negative, A zero. OutResult: OUT_HALTS on; off and full; off and not full. -/
theorem witness_jnz_out_results :
    (running [] (-1) 0 0).a.toInt ≠ 0 ∧ (running [] (-1) 0 0).jt = false ∧ (running [] 0 0 0).a.toInt = 0 ∧
    combo (ComboOperand.ofWord 3) full = some 3 ∧ full.cfg.outHalts = false ∧
    full.cfg.outDepth = some full.out.length ∧ (goingOn (running [] 0 0 0)).cfg.outHalts = false ∧
    (goingOn (running [] 0 0 0)).cfg.outDepth ≠ some (goingOn (running [] 0 0 0)).out.length ∧
    (goingOn (running [] 0 0 0)).jt = false ∧ (running [] 0 0 0).cfg.outHalts = true := by decide

/-- AluFrame, JnzFrame, OutFrame: an instruction of each, answering a next state, also by a fault and by a halt. -/
theorem witness_frames :
    destination (.adv .reserved) = some .a ∧ (after (exec (.adv .reserved) (running [] 1 2 3))).isSome = true ∧
    destination (.cdv (.literal 1)) = some .c ∧ (after (exec (.cdv (.literal 1)) (running [] 1 2 3))).isSome = true ∧
    destination (.bxl 7) = some .b ∧ destination (.bxc 7) = some .b ∧ destination (.bst (.literal 0)) = some .b ∧
    destination (.bdv (.literal 0)) = some .b ∧ (after (exec (.jnz 7) (running [] 1 2 3))).isSome = true ∧
    (after (exec (.out (.literal 3)) (running [] 1 2 3))).isSome = true ∧
    (after (exec (.out (.literal 3)) full)).isSome = true := by decide

/-- FaultsExactlyAsTabled: each fault, and none. -/
theorem witness_faults :
    faultRaised (.bst .reserved) full = some .invalidComboOperand ∧
    faultRaised (.cdv (.register .c)) (running [] 0 0 (-1)) = some .negativeShift ∧
    faultRaised (.out (.literal 0)) full = some .outputOverflow ∧
    faultRaised (.out (.literal 0)) (running [] 0 0 0) = none ∧ statusReason (running [] 0 0 0).status ≠ 3 := by decide

/-- FaultRecordIsFrozenState: a running state whose step faults, with TRACE_EN. -/
theorem witness_fault_record :
    Running full ∧ statusReason full.status ≠ 3 ∧ full.cfg.traceEn = true ∧
    (after (step full)).map (fun t => statusReason t.status) = some 3 := by decide

/-- StepRunsDecodedPair, RunningAlwaysSteps, ProgramReadOnlyDuringRun, PcWriters, TraceRecordPerFetch, OutGrowsOnlyByOut:
a running state with a pair at pc, an even and an odd one, whose step answers. -/
theorem witness_running :
    Running full ∧ full.prog[full.pc.toNat]? = some 5 ∧ full.prog[full.pc.toNat + 1]? = some 3 ∧
    full.cfg.traceEn = true ∧ (after (step full)).isSome = true ∧
    Running { running [3, 1, 2, 4] 5 0 0 with pc := 1 } ∧
    (after (step { running [3, 1, 2, 4] 5 0 0 with pc := 1 })).isSome = true := by decide

/-- BoundsCheckHalts, TraceRecordPerFetch: pc at N - 1, the first that fails, and at N - 2, the last that passes;
AdvanceNeverWraps: the latter meets the invariant. -/
theorem witness_bounds :
    Running { running [0, 1, 0] 9 0 0 with pc := 2 } ∧ ({ running [0, 1, 0] 9 0 0 with pc := 2 } : State).jt = false ∧
    ¬ ({ running [0, 1, 0] 9 0 0 with pc := 2 } : State).pc.toNat + 1 < 3 ∧
    ({ running [0, 1, 0] 9 0 0 with pc := 1 } : State).inBounds = true ∧
    (after (step { running [0, 1, 0] 9 0 0 with pc := 2 })).isSome = true := by decide

theorem witness_invariant_last_pc : ({ running [0, 1, 0] 9 0 0 with pc := 1 } : State).Inv := by decide

/-- HaltOutKeepsPc: a step that ends in HALT_OUT. JumpPastEndHalts: a jump to 6 in a program of 4 words (TV-JNZ2), and to
N - 1 = 3. SelfJumpNeverEnds: a jump to itself. -/
theorem witness_ends :
    Running (running [5, 4] (-3) 0 0) ∧ statusReason (running [5, 4] (-3) 0 0).status = 0 ∧
    (after (step (running [5, 4] (-3) 0 0))).map (fun t => statusReason t.status) = some 2 ∧
    Running (running [3, 6, 1, 7] 1 0 0) ∧ (running [3, 6, 1, 7] 1 0 0).prog[0]? = some 3 ∧
    (running [3, 6, 1, 7] 1 0 0).prog[1]? = some 6 ∧ (running [3, 6, 1, 7] 1 0 0).a ≠ 0 ∧
    (running [3, 6, 1, 7] 1 0 0).progLen ≤ (6 : ProgWord).toNat + 1 ∧ (running [3, 3, 1, 7] 1 0 0).progLen ≤ (3 : ProgWord).toNat + 1 ∧
    (running [3, 0, 5, 3] 1 0 0).pc.toNat = (0 : ProgWord).toNat := by decide

/-- StatusTransitions, RestKeepsState, HostReads, RestMakesNextRunStart, NoValueIsNeverRead: at rest before and after runs,
with and without a run start to come, accepted and refused; a configuration R5 forbids. -/
theorem witness_at_rest :
    AtRest State.reset ∧ State.reset.launches = [] ∧ (after (step State.reset)).isSome = true ∧ holdsNoValue State.reset = true ∧
    AtRest halted ∧ statusState halted.status = 2 ∧ statusReason halted.status ≠ 4 ∧ AtRest refused ∧
    statusReason refused.status = 4 ∧ holdsNoValue refused = true ∧ AtRest (launched 8 9 0 0 [0, 1]) ∧
    (launched 8 9 0 0 [0, 1]).launches.map launchCheck = [none] ∧ (launched 8 9 0 0 [0, 1]).launches ≠ [] ∧
    (launched 2 0 0 0 [0, 1, 0, 1]).launches.map launchCheck = [some .programTooLong] ∧
    (after (step (launched 8 9 0 0 [0, 1]))).isSome = true ∧
    (launched 8 9 0 0 [0, 1]).launches.map (fun l => configValid l.cfg) = [true] ∧
    configValid { Config.initial with outDepth := some 0 } = false ∧
    Running ((running [0, 1] 9 0 0).withLaunch { cfg := Config.initial, a0 := 0, b0 := 0, c0 := 0, program := [] }) := by decide

/-- StepFaultsOnlyOnReservedStatus: STATE = 3 is reserved, and the step faults on it. -/
theorem witness_reserved_status :
    statusLegal 3 = false ∧ step { State.reset with status := 3 } = .fault .reservedStatus := ⟨by decide, rfl⟩

/-- ValidLaunchLoads, RunEndsAsTabled: a launch at the ends of every range; ShortProgramsHaltAtOnce: N = 0 and N = 1. -/
theorem witness_valid_launch :
    ValidLaunch { cfg := { outHalts := false, outDepth := some 1, progMax := 2, traceEn := false },
                  a0 := -9223372036854775808, b0 := 9223372036854775807, c0 := 0, program := [0, 7] } ∧
    ValidLaunch { cfg := Config.initial, a0 := 1, b0 := 2, c0 := 3, program := [] } ∧
    ValidLaunch { cfg := Config.initial, a0 := 1, b0 := 2, c0 := 3, program := [5] } ∧
    configValid Config.initial = true ∧
    configValid { outHalts := false, outDepth := some 1, progMax := 2, traceEn := false } = true := by decide

/-- RunStartRefusals, LoadCheckOrder: each condition broken, the registers at the first value out of range. -/
theorem witness_refused_launch :
    launchCheck { cfg := { Config.initial with progMax := 1 }, a0 := 0, b0 := 0, c0 := 0, program := [9, 0] } =
      some .programTooLong ∧
    launchCheck { cfg := Config.initial, a0 := 0, b0 := 0, c0 := 0, program := [0, 8, -1] } =
      some (.invalidProgramWord 1) ∧
    launchCheck { cfg := Config.initial, a0 := 9223372036854775808, b0 := 0, c0 := 0, program := [] } =
      some (.registerOutOfRange .a) ∧
    launchCheck { cfg := Config.initial, a0 := 0, b0 := -9223372036854775809, c0 := 9223372036854775808, program := [] } =
      some (.registerOutOfRange .b) ∧
    launchCheck { cfg := Config.initial, a0 := 0, b0 := 0, c0 := 9223372036854775808, program := [7] } =
      some (.registerOutOfRange .c) := by decide

/-- RunStartForgetsEarlierRun: two different states at rest with the same accepted run start to come. -/
theorem witness_forgets :
    AtRest (launched 8 9 0 0 [0, 1]) ∧ AtRest { halted with launches := (launched 8 9 0 0 [0, 1]).launches } ∧
    launched 8 9 0 0 [0, 1] ≠ { halted with launches := (launched 8 9 0 0 [0, 1]).launches } ∧
    (launched 8 9 0 0 [0, 1]).launches.map launchCheck = [none] := by decide

/-- CoreMatchesUnboundedInterpreter, StepKeepsInvariant, ZeroARunEnds, ZeroAStepAdvances: with the `witness_invariant` theorems above, states
whose step goes on, halts either way, and has no meaning in the source. -/
theorem witness_refinement :
    Running (running [7, 6] (-5) (-1) 3) ∧
    refTurn true [7, 6] (running [7, 6] (-5) (-1) 3).toRef = .goesOn { a := -5, b := -1, c := -1, pc := 2, out := [] } ∧
    refTurn true [1, 5] (running [1, 5] 0 (-1) 0).toRef = .goesOn { a := 0, b := -6, c := 0, pc := 2, out := [] } ∧
    refTurn true [5, 4] (running [5, 4] (-3) 0 0).toRef = .ends .haltOut { a := -3, b := 0, c := 0, pc := 0, out := [5] } ∧
    refTurn true [] (running [] 1 2 3).toRef = .ends .haltBounds { a := 1, b := 2, c := 3, pc := 0, out := [] } ∧
    refTurn true [0, 5] (running [0, 5] 100 (-2) 0).toRef = .noMeaning ∧
    Running (running [5, 3] 0 0 0) ∧ (running [5, 3] 0 0 0).a = 0 ∧
    (after (step (running [7, 6] (-5) (-1) 3))).isSome = true ∧ (after (step (running [5, 3] 0 0 0))).isSome = true := by decide

/-- ResultOwedToHost: each kind of end meets the invariant (`witness_invariant`) and has the REASON the clause asks for.
FuelIsNoEnd: an ended state and one that has not ended. -/
theorem witness_results :
    GoodEnd halted ∧ GoodEnd haltedOut ∧ statusReason faulted.status = 3 ∧ statusReason refused.status = 4 ∧
    statusState State.reset.status ≠ 2 ∧ runFuel 0 halted = .ended halted ∧ runFuel 0 State.reset = .noEnd State.reset := by
  decide

/-- ShiftCornerCases: the flag clear; B and C not negative; A = -1; A = 63; A < 0. AssembleInvertsListing: a well-formed
listing. PlacedInstructionRuns: a value that decodes, without tracing. -/
theorem witness_corners :
    (running [] (-1) 0 0).jt = false ∧ 0 ≤ (running [] (-1) 0 0).b.toInt ∧ 0 ≤ (running [] (-1) 0 0).c.toInt ∧
    (running [] (-1) 0 0).a.toInt = -1 ∧ 63 ≤ (running [] 63 0 0).a.toInt ∧ (running [] (-1) 0 0).a.toInt < 0 ∧
    (∀ i ∈ [Instr.adv (.literal 3), .out .reserved], i.WellFormed = true) ∧
    decodeTableWord 8 63 = some (.cdv .reserved) ∧ State.reset.cfg.traceEn = false := by decide

/-- RunStartRefusals: its hypothesis, for a word one above the range and a register one below. -/
theorem witness_refusal_conditions :
    ¬ (∀ n ∈ ([0, 8] : List Int), 0 ≤ n ∧ n ≤ 7) ∧
    ¬ (∀ n ∈ ([0, -9223372036854775809, 0] : List Int), -(2 ^ 63) ≤ n ∧ n ≤ 2 ^ 63 - 1) ∧
    ¬ ([0, 1] : List Int).length ≤ 1 := by decide

/-- StatusTransitions, each clause in a run: no pair at pc; a pair that faults; a halting `out`; a pair that goes on.
FaultRecordIsFrozenState: a step that faults with NegativeShift. -/
theorem witness_status_clauses :
    instrAtPc (running [0] 9 0 0) = none ∧ (after (step (running [0] 9 0 0))).isSome = true ∧
    instrAtPc (running [0, 5] 9 (-2) 0) = some (.adv (.register .b)) ∧
    faultRaised (.adv (.register .b)) (running [0, 5] 9 (-2) 0) = some .negativeShift ∧
    (after (step (running [0, 5] 9 (-2) 0))).map (fun t => statusCode t.status) = some 2 ∧
    atOut (running [5, 4] 9 0 0) = true ∧ (running [5, 4] 9 0 0).cfg.outHalts = true ∧
    faultRaised (.out (.register .a)) (running [5, 4] 9 0 0) = none ∧
    instrAtPc (running [4, 7] 9 0 0) = some (.bxc 7) ∧ (after (step (running [4, 7] 9 0 0))).isSome = true := by decide

end Sys2Proof.Tests
end

section
/-! PROOFS. The arithmetic primitives (spec/00_scope.md R8, spec/41_alu.md R110): each word operation as an operation
on the integers that the words stand for. -/

namespace Sys2Proof.Machine

/-! ## Floor division and the remainder mod 8 -/

theorem floordiv_of_pos (a : Int) {d : Int} (hd : 0 < d) : floordiv a d = a / d :=
  Int.fdiv_eq_ediv_of_nonneg a hd.le

/-- The quotient of R8 is the greatest: it is at least `q` exactly when `q * d` does not pass `a`. -/
theorem le_floordiv_iff {a d q : Int} (hd : 0 < d) : q ≤ floordiv a d ↔ q * d ≤ a := by
  rw [floordiv_of_pos a hd, Int.le_ediv_iff_mul_le hd]

theorem mod8_eq_emod (a : Int) : mod8 a = a % 8 := by
  rw [mod8, floordiv_of_pos a (by decide), Int.emod_def]

theorem mod8_range (a : Int) : 0 ≤ mod8 a ∧ mod8 a ≤ 7 := by
  rw [mod8_eq_emod]
  omega

/-- `k[2:0]` is `k mod 8` for every 64-bit `k`, negative ones too: 2^64 is a multiple of 8 (R8). -/
theorem low3_toNat (k : Word) : ((low3 k).toNat : Int) = mod8 k.toInt := by
  have hlow : (low3 k).toNat = k.toNat % 8 := by simp [low3]
  rw [hlow, mod8_eq_emod, BitVec.toInt_eq_toNat_cond]
  split <;> omega

/-! ## The arithmetic shift -/

theorem asr_getLsbD (a : Word) {n j : Nat} (hj : j < 64) :
    (asr a n).getLsbD j = if j + n < 64 then a.getLsbD (j + n) else a.getLsbD 63 := by
  have hinside : ¬ 64 ≤ j := by omega
  simp [asr, BitVec.getLsbD_sshiftRight, hinside, Nat.add_comm n j, BitVec.msb_eq_getLsbD_last]

theorem asr_toInt (a : Word) (n : Nat) : (asr a n).toInt = floordiv a.toInt (2 ^ n) := by
  rw [floordiv_of_pos _ (by positivity), asr, BitVec.toInt_sshiftRight, Int.shiftRight_eq_div_pow]
  norm_cast

/-- From 63 places on, floor division by a power of two leaves the sign of a 64-bit value alone. -/
theorem floordiv_two_pow_of_63_le (a : Word) {k : Nat} (hk : 63 ≤ k) :
    floordiv a.toInt (2 ^ k) = if 0 ≤ a.toInt then 0 else -1 := by
  have hlow : -2 ^ 63 ≤ a.toInt := a.le_toInt
  have hhigh : a.toInt < 2 ^ 63 := a.toInt_lt
  have hpow : (2 : Int) ^ 63 ≤ 2 ^ k := pow_le_pow_right₀ (by decide) hk
  rw [floordiv_of_pos _ (by positivity)]
  split
  · exact Int.ediv_eq_zero_of_lt (by assumption) (by omega)
  · exact Int.ediv_eq_neg_one_of_neg_of_le (by omega) (by omega)

/-- The shift by `min k 63` places is floor division by `2^k`, for every `k` (R110). -/
theorem asr_min_toInt (a : Word) (k : Nat) : (asr a (min k 63)).toInt = floordiv a.toInt (2 ^ k) := by
  rw [asr_toInt]
  rcases le_total k 63 with hk | hk
  · rw [min_eq_left hk]
  · rw [min_eq_right hk, floordiv_two_pow_of_63_le a le_rfl, floordiv_two_pow_of_63_le a hk]

/-- The ALU's shift-division by a count that is not negative is floor division by the power of two (R110). -/
theorem shiftDiv_toInt (a : Word) {k : Word} (hk : 0 ≤ k.toInt) :
    (shiftDiv a k).toInt = floordiv a.toInt (2 ^ k.toInt.toNat) := by
  have hcount : k.toInt.toNat = k.toNat := by
    have hlt := k.isLt
    have hcond := BitVec.toInt_eq_toNat_cond k
    split at hcond <;> omega
  rw [shiftDiv, asr_min_toInt, hcount]

/-! ## Sign extension and XOR -/

theorem zext64_toNat (v : ProgWord) : (zext64 v).toNat = v.toNat := by
  have hv := v.isLt
  simp only [zext64, BitVec.toNat_setWidth]
  omega

theorem zext64_toInt (v : ProgWord) : (zext64 v).toInt = v.toNat := by
  have hv := v.isLt
  rw [BitVec.toInt_eq_toNat_of_lt (by rw [zext64_toNat]; omega), zext64_toNat]

/-- The integer of a negative word, in the form that `Int.xor` computes on. -/
theorem toInt_of_msb {w : Nat} {x : BitVec w} (h : x.msb = true) : x.toInt = Int.negSucc (~~~x).toNat := by
  have hx := x.isLt
  rw [BitVec.toInt_eq_msb_cond, h, if_pos rfl, BitVec.toNat_not, Int.negSucc_eq]
  push_cast [show x.toNat ≤ 2 ^ w - 1 by omega, show 1 ≤ 2 ^ w by omega]
  omega

/-- XOR of words is XOR of the sign-extended integers they stand for (R6): by the signs of the two. -/
theorem toInt_xor_eq_intXor {w : Nat} (x y : BitVec w) : (x ^^^ y).toInt = Int.xor x.toInt y.toInt := by
  have hmsb : (x ^^^ y).msb = (x.msb ^^ y.msb) := BitVec.msb_xor
  cases hx : x.msb <;> cases hy : y.msb <;> rw [hx, hy] at hmsb
  · rw [BitVec.toInt_eq_toNat_of_msb hx, BitVec.toInt_eq_toNat_of_msb hy, BitVec.toInt_eq_toNat_of_msb hmsb,
      BitVec.toNat_xor]
    rfl
  · rw [BitVec.toInt_eq_toNat_of_msb hx, toInt_of_msb hy, toInt_of_msb hmsb, BitVec.not_xor_right, BitVec.toNat_xor]
    rfl
  · rw [toInt_of_msb hx, BitVec.toInt_eq_toNat_of_msb hy, toInt_of_msb hmsb, BitVec.not_xor_left, BitVec.toNat_xor]
    rfl
  · have hnot : x ^^^ y = ~~~x ^^^ ~~~y := by rw [← BitVec.not_xor_left, ← BitVec.not_xor_right, BitVec.not_not]
    rw [toInt_of_msb hx, toInt_of_msb hy, BitVec.toInt_eq_toNat_of_msb hmsb, hnot, BitVec.toNat_xor]
    rfl

/-! ## The primitives -/

/-- Settles O6: one lemma for each primitive of R8. -/
theorem arithmeticPrimitives : Obligations.ArithmeticPrimitives := 
  ⟨fun _ _ _ hd => le_floordiv_iff hd, fun k => ⟨low3_toNat k, rfl, mod8_range k.toInt⟩,
    fun _ _ _ => BitVec.getLsbD_xor, fun a _ _ _ hj => asr_getLsbD a hj⟩

end Sys2Proof.Machine
end

section
/-! PROOFS. Tracing off, now and in every run start to come, is no matter to a step: every operation of the machine
commutes with `State.quiet` (spec/00_scope.md R5, spec/40_sequencer.md R83). -/

namespace Sys2Proof.Machine

section Commutes

variable (s : State)

/-! ## The state operations -/

@[simp] theorem State.quiet_a : s.quiet.a = s.a := rfl
@[simp] theorem State.quiet_status : s.quiet.status = s.status := rfl
@[simp] theorem State.quiet_outHalts : s.quiet.cfg.outHalts = s.cfg.outHalts := rfl
@[simp] theorem State.quiet_outFull : s.quiet.outFull = s.outFull := rfl
@[simp] theorem State.quiet_isDone : s.quiet.isDone = s.isDone := rfl
@[simp] theorem State.quiet_readReg (r : Reg) : s.quiet.readReg r = s.readReg r := by cases r <;> rfl
@[simp] theorem State.quiet_combo (o : ComboOperand) : combo o s.quiet = combo o s := combo_congr o rfl rfl rfl

theorem State.quiet_clearJt : s.quiet.clearJt = s.clearJt.quiet := rfl
@[simp] theorem State.quiet_setJt : s.quiet.setJt = s.setJt.quiet := rfl
@[simp] theorem State.quiet_setPc (w : Word) : s.quiet.setPc w = (s.setPc w).quiet := rfl
@[simp] theorem State.quiet_emit (v : ProgWord) : s.quiet.emit v = (s.emit v).quiet := rfl
@[simp] theorem State.quiet_halt (h : HaltReason) : s.quiet.halt h = (s.halt h).quiet := rfl
@[simp] theorem State.quiet_raiseFault (f : CoreFault) : s.quiet.raiseFault f = (s.raiseFault f).quiet := rfl
@[simp] theorem State.quiet_writeReg (r : Reg) (v : Word) : s.quiet.writeReg r v = (s.writeReg r v).quiet := by
  cases r <;> rfl
@[simp] theorem State.quiet_retire : s.quiet.retire = s.retire.quiet := by
  rw [State.retire_eq, State.retire_eq]
  rfl

/-- The trace record is all that the fetch adds to the state, and a quiet state sends none. -/
@[simp] theorem State.quiet_fetched (op v : ProgWord) : s.quiet.fetched op v = (s.fetched op v).quiet := by
  rw [State.fetched, State.fetched, State.traced_eq, State.traced_eq]
  rfl

/-! ## The instructions -/

theorem divideInto_quiet (dest : Reg) (o : ComboOperand) :
    divideInto dest o s.quiet = quietOutcome (divideInto dest o s) := by
  obtain ⟨rfl, e⟩ | ⟨k, hk, hneg, e⟩ | ⟨k, hk, hnonneg, e⟩ := divideInto_cases dest o s <;> rw [e]
  · simp [divideInto, combo, quietOutcome]
  · simp [divideInto, hk, hneg, quietOutcome]
  · simp [divideInto, hk, Int.not_lt.mpr hnonneg, quietOutcome]

theorem execBst_quiet (o : ComboOperand) : execBst o s.quiet = quietOutcome (execBst o s) := by
  cases hk : combo o s <;> simp [execBst, hk, quietOutcome]

theorem execJnz_quiet (v : ProgWord) : execJnz v s.quiet = quietOutcome (execJnz v s) := by
  rw [execJnz_eq, execJnz_eq, State.quiet_a]
  split <;> simp [quietOutcome]

theorem execOut_quiet (o : ComboOperand) : execOut o s.quiet = quietOutcome (execOut o s) := by
  cases hk : combo o s with
  | none => simp [execOut, hk, quietOutcome]
  | some k => cases hh : s.cfg.outHalts <;> cases hf : s.outFull <;> simp [execOut, hk, hh, hf, quietOutcome]

/-- No instruction reads the trace stream, TRACE_EN or the run starts to come. -/
theorem exec_quiet (i : Instr) : exec i s.quiet = quietOutcome (exec i s) := by
  cases i with
  | adv o => exact divideInto_quiet s .a o
  | bdv o => exact divideInto_quiet s .b o
  | cdv o => exact divideInto_quiet s .c o
  | bst o => exact execBst_quiet s o
  | jnz v => exact execJnz_quiet s v
  | out o => exact execOut_quiet s o
  | bxl v => simp [exec, execBxl, quietOutcome]
  | bxc v => simp [exec, execBxc, quietOutcome]

/-! ## The step -/

theorem runningStep_quiet : runningStep exec s.quiet = quietOutcome (runningStep exec s) := by
  obtain ⟨op, v, h0, h1⟩ | ho := words_or_outside s
  · rw [runningStep_of_words exec (s := s) h0 h1, runningStep_of_words exec (s := s.quiet) h0 h1, State.quiet_fetched,
      exec_quiet]
  · rw [runningStep_of_outside exec (s := s) ho, runningStep_of_outside exec (s := s.quiet) ho, State.quiet_clearJt,
      State.quiet_halt, quietOutcome]

/-- The load checks look at the program, PROG_MAX and the registers only. -/
theorem runStart_quiet (l : Launch) :
    s.quiet.runStart { l with cfg := quietConfig l.cfg } = (s.runStart l).quiet := by
  have hcheck : launchCheck { l with cfg := quietConfig l.cfg } = launchCheck l := rfl
  obtain ⟨r, hc, e⟩ | ⟨hc, e⟩ := runStart_cases l s <;> rw [e, State.runStart, hcheck, hc] <;> rfl

theorem hostTurn_quiet : hostTurn s.quiet = quietOutcome (hostTurn s) := by
  cases hl : s.launches with
  | nil => simp [hostTurn, State.quiet, hl, quietOutcome]
  | cons l rest =>
    have hl' : s.quiet.launches =
        { l with cfg := quietConfig l.cfg } :: ({ s with launches := rest } : State).quiet.launches := by
      simp [State.quiet, hl]
    have hvalid : configValid (quietConfig l.cfg) = configValid l.cfg := rfl
    have hrun := runStart_quiet { s with launches := rest } l
    cases hv : configValid l.cfg with
    | false => simp [hostTurn, hl, hl', hvalid, hv, quietOutcome]
    | true =>
      simp only [hostTurn, hl, hl', hvalid, hv, if_true, quietOutcome, ← hrun]
      rfl

theorem step_quiet : step s.quiet = quietOutcome (step s) := by
  by_cases hlegal : statusLegal s.status = true
  · obtain hr | hr := running_or_atRest hlegal
    · rw [step_of_running hr, step_of_running (s := s.quiet) hr, runningStep_quiet]
    · rw [step_of_atRest hr, step_of_atRest (s := s.quiet) hr, hostTurn_quiet]
  · simp [step, cycle, hlegal, quietOutcome]

/-! ## Runs under fuel -/

/-- The end of a run with its state made quiet. -/
def RunEnd.quiet : RunEnd → RunEnd
  | .ended t => .ended t.quiet
  | .noEnd t => .noEnd t.quiet
  | .faulted f => .faulted f
  | .refused r => .refused r

theorem runFuel_quiet (n : Nat) : runFuel n s.quiet = (runFuel n s).quiet := by
  induction n generalizing s with
  | zero => cases hd : s.isDone <;> simp [runFuel, hd, RunEnd.quiet]
  | succ n ih =>
    cases hd : s.isDone with
    | true => simp [runFuel, hd, RunEnd.quiet]
    | false => cases hs : step s <;> simp [runFuel, hd, step_quiet, hs, quietOutcome, ih, RunEnd.quiet]

end Commutes

/-- Settles O46: `quiet` commutes with a step, and so, by induction on the fuel, with a run. -/
theorem tracingChangesNothing : Obligations.TracingChangesNothing :=
  ⟨step_quiet, fun n s => runFuel_quiet s n⟩

end Sys2Proof.Machine
end

section
/-! PROOFS. The 64-bit CORE against the unbounded interpreter (spec/00_scope.md R6, spec/40_sequencer.md R80): each
instruction's meaning is one turn of `refExec` on the integers that the registers stand for. -/

namespace Sys2Proof.Machine

/-! ## What the interpreter sees of the state -/

/-- The write of a register in the interpreter. -/
def RefState.writeReg (r : Reg) (q : Int) (x : RefState) : RefState :=
  match r with
  | .a => { x with a := q }
  | .b => { x with b := q }
  | .c => { x with c := q }

theorem State.toRef_writeReg (r : Reg) (w : Word) (s : State) :
    (s.writeReg r w).toRef = s.toRef.writeReg r w.toInt := by
  cases r <;> rfl

theorem State.toRef_emit (w : ProgWord) (s : State) :
    (s.emit w).toRef = { s.toRef with out := s.toRef.out ++ [w.toNat] } := by
  simp [State.toRef, State.emit]

@[simp] theorem State.toRef_fetched (op v : ProgWord) (s : State) : (s.fetched op v).toRef = s.toRef := by
  simp [State.toRef]

/-- The pc of a state whose advance is exact: the sum does not wrap (spec/10_state.md R28), and no jump is taken. -/
abbrev State.AdvanceExact (s : State) : Prop := s.jt = false ∧ s.pc.toNat + 2 < 2 ^ 64

theorem State.toRef_retire {s : State} (h : s.AdvanceExact) :
    s.retire.toRef = { s.toRef with pc := s.toRef.pc + 2 } := by
  obtain ⟨hjt, hpc⟩ := h
  simpa [State.toRef, hjt] using hpc

/-! ## Operands -/

/-- The two resolvers agree: a literal, a register, or no value for operand 7 (R86). -/
theorem refCombo_toRef (v : ProgWord) (s : State) :
    refCombo v.toNat s.toRef = (combo (ComboOperand.ofWord v) s).map BitVec.toInt := by
  unfold ComboOperand.ofWord
  split_ifs with h4 h5 h6 h7
  · subst h4; rfl
  · subst h5; rfl
  · subst h6; rfl
  · subst h7; rfl
  · have hle : v.toNat ≤ 3 := by bv_omega
    simp [refCombo, hle, combo, zext64_toInt]

/-! ## One turn -/

/-- What `Obligations.CoreMatchesUnboundedInterpreter` asks of a step from `s` to `t` beside a turn. -/
def TurnMatches (s t : State) : RefTurn → Prop
  | .goesOn r => (t.status = s.status ∧ t.toRef = r) ∨ (t.status = statusWord 2 3 3 ∧ s.cfg.outDepth = some s.out.length)
  | .ends .haltBounds r => t.status = statusWord 2 1 0 ∧ t.toRef = r
  | .ends .haltOut r => t.status = statusWord 2 2 0 ∧ t.toRef = r
  | .noMeaning => (t.status = statusWord 2 3 1 ∨ t.status = statusWord 2 3 2) ∧ t.toRef = s.toRef

/-- The fetch clears the jump-taken flag and may send a trace record: no turn depends on either. -/
theorem turnMatches_fetched {op v : ProgWord} {s t : State} {turn : RefTurn} :
    TurnMatches (s.fetched op v) t turn ↔ TurnMatches s t turn := by
  cases turn with
  | goesOn r => simp [TurnMatches]
  | ends h r => cases h <;> rfl
  | noMeaning => simp [TurnMatches]

/-- An instruction that retires after an effect `u` of its own matches the turn that goes on from that effect. -/
theorem turnMatches_retire {s u : State} (hstatus : u.status = s.status) (hu : u.AdvanceExact) :
    TurnMatches s u.retire (refNext u.toRef) :=
  .inl ⟨by rw [State.retire_status, hstatus], State.toRef_retire hu⟩

theorem turnMatches_invalidOperand (s : State) : TurnMatches s (s.raiseFault .invalidComboOperand) .noMeaning :=
  ⟨.inl rfl, rfl⟩

theorem turnMatches_negativeShift (s : State) : TurnMatches s (s.raiseFault .negativeShift) .noMeaning :=
  ⟨.inr rfl, rfl⟩

theorem turnMatches_writeReg {s : State} (hs : s.AdvanceExact) (r : Reg) {w : Word} {q : Int} (hq : w.toInt = q) :
    TurnMatches s (s.writeReg r w).retire (refNext (s.toRef.writeReg r q)) := by
  rw [← hq, ← State.toRef_writeReg]
  exact turnMatches_retire (by simp) (by simpa [State.AdvanceExact] using hs)

/-- The interpreter's turn for adv, bdv and cdv, by the destination. -/
def refDivideInto (dest : Reg) (v : Nat) (r : RefState) : RefTurn :=
  match refDivide v r with
  | some q => refNext (r.writeReg dest q)
  | none => .noMeaning

/-- Shift-division is the interpreter's division, and its two faults are where the interpreter has no meaning. -/
theorem divideInto_matches {s t : State} {v : ProgWord} (dest : Reg) (hs : s.AdvanceExact)
    (h : divideInto dest (ComboOperand.ofWord v) s = .next t) :
    TurnMatches s t (refDivideInto dest v.toNat s.toRef) := by
  unfold refDivideInto refDivide
  rw [refCombo_toRef]
  obtain ⟨ho, e⟩ | ⟨k, hk, hneg, e⟩ | ⟨k, hk, hnonneg, e⟩ := divideInto_cases dest (ComboOperand.ofWord v) s <;>
    rw [e] at h <;> cases h
  · rw [ho]
    exact turnMatches_invalidOperand s
  · simp only [hk, Option.map_some, if_neg (Int.not_le.mpr hneg)]
    exact turnMatches_negativeShift s
  · simp only [hk, Option.map_some, if_pos hnonneg]
    exact turnMatches_writeReg hs dest (shiftDiv_toInt s.a hnonneg)

theorem execBxl_matches {s t : State} {v : ProgWord} (hs : s.AdvanceExact) (h : execBxl v s = .next t) :
    TurnMatches s t (refExec s.cfg.outHalts 1 v.toNat s.toRef) := by
  cases h
  exact turnMatches_writeReg hs .b (by rw [toInt_xor_eq_intXor, zext64_toInt]; rfl)

theorem execBxc_matches {s t : State} {v : ProgWord} (hs : s.AdvanceExact) (h : execBxc v s = .next t) :
    TurnMatches s t (refExec s.cfg.outHalts 4 v.toNat s.toRef) := by
  cases h
  exact turnMatches_writeReg hs .b (toInt_xor_eq_intXor s.b s.c)

theorem execBst_matches {s t : State} {v : ProgWord} (hs : s.AdvanceExact)
    (h : execBst (ComboOperand.ofWord v) s = .next t) :
    TurnMatches s t (refExec s.cfg.outHalts 2 v.toNat s.toRef) := by
  simp only [refExec, refCombo_toRef]
  cases hk : combo (ComboOperand.ofWord v) s with
  | none =>
    simp only [execBst, hk] at h
    cases h
    exact turnMatches_invalidOperand s
  | some k =>
    simp only [execBst, hk] at h
    cases h
    exact turnMatches_writeReg hs .b (by rw [zext64_toInt, low3_toNat])

theorem execJnz_matches {s t : State} {v : ProgWord} (hs : s.AdvanceExact) (h : execJnz v s = .next t) :
    TurnMatches s t (refExec s.cfg.outHalts 3 v.toNat s.toRef) := by
  have ha : s.toRef.a = 0 ↔ s.a = 0 := BitVec.toInt_inj (y := 0)
  rw [execJnz_eq] at h
  simp only [refExec, ha]
  split at h <;> cases h
  · rw [if_pos (by assumption)]
    exact turnMatches_retire rfl hs
  · rw [if_neg (by assumption)]
    exact .inl ⟨by simp, by simp [State.toRef, zext64_toNat]⟩

/-- An emission is the interpreter's append; OUT_HALTS ends both, and a full OUT stops the CORE alone. -/
theorem execOut_matches {s t : State} {v : ProgWord} (hs : s.AdvanceExact)
    (h : execOut (ComboOperand.ofWord v) s = .next t) :
    TurnMatches s t (refExec s.cfg.outHalts 5 v.toNat s.toRef) := by
  simp only [refExec, refCombo_toRef]
  cases hk : combo (ComboOperand.ofWord v) s with
  | none =>
    simp only [execOut, hk] at h
    cases h
    exact turnMatches_invalidOperand s
  | some k =>
    have hentry : (mod8 k.toInt).toNat = (low3 k).toNat := by rw [← low3_toNat, Int.toNat_natCast]
    simp only [execOut, hk] at h
    simp only [Option.map_some, hentry, ← State.toRef_emit]
    split at h
    · cases h
      rw [if_pos (by assumption)]
      exact ⟨rfl, rfl⟩
    · rw [if_neg (by assumption)]
      split at h <;> cases h
      · exact .inr ⟨rfl, State.outFull_iff.mp (by assumption)⟩
      · exact turnMatches_retire rfl hs

/-- Every opcode word is one of eight. -/
theorem ProgWord.eight_cases (op : ProgWord) :
    op = 0 ∨ op = 1 ∨ op = 2 ∨ op = 3 ∨ op = 4 ∨ op = 5 ∨ op = 6 ∨ op = 7 := by
  revert op
  decide

/-- The execute stage on a decoded pair is the interpreter's turn on the two numbers (R65). -/
theorem exec_matches {s t : State} {op v : ProgWord} (hs : s.AdvanceExact) (h : exec (decodePair op v) s = .next t) :
    TurnMatches s t (refExec s.cfg.outHalts op.toNat v.toNat s.toRef) := by
  rcases ProgWord.eight_cases op with rfl | rfl | rfl | rfl | rfl | rfl | rfl | rfl
  · exact divideInto_matches .a hs h
  · exact execBxl_matches hs h
  · exact execBst_matches hs h
  · exact execJnz_matches hs h
  · exact execBxc_matches hs h
  · exact execOut_matches hs h
  · exact divideInto_matches .b hs h
  · exact divideInto_matches .c hs h

/-! ## The step -/

theorem refTurn_of_words {p : List ProgWord} {r : RefState} {op v : ProgWord} (outHalts : Bool)
    (h0 : p[r.pc]? = some op) (h1 : p[r.pc + 1]? = some v) :
    refTurn outHalts (p.map BitVec.toNat) r = refExec outHalts op.toNat v.toNat r := by
  simp [refTurn, h0, h1]

theorem refTurn_of_outside {p : List ProgWord} {r : RefState} (outHalts : Bool) (h : p.length ≤ r.pc + 1) :
    refTurn outHalts (p.map BitVec.toNat) r = .ends .haltBounds r := by
  have h1 : (p.map BitVec.toNat)[r.pc + 1]? = none := by simpa using h
  unfold refTurn
  rw [h1]
  split <;> simp_all

theorem progMax_le_of_configValid {cfg : Config} (h : configValid cfg = true) : cfg.progMax ≤ 2 ^ 63 := by
  simp only [configValid, Bool.and_eq_true, decide_eq_true_eq] at h
  exact h.2

/-- Inside the program the advance is exact, since N is at most 2^63 (spec/10_state.md R28). -/
theorem fetched_advanceExact {s : State} {op v : ProgWord} (hinv : s.Inv) (h1 : s.prog[s.pc.toNat + 1]? = some v) :
    (s.fetched op v).AdvanceExact := by
  obtain ⟨-, hcfg, hlen, -⟩ := hinv
  have hmax := progMax_le_of_configValid hcfg
  have hpc : s.pc.toNat + 1 < s.progLen := (List.getElem?_eq_some_iff.mp h1).1
  exact ⟨by simp, by rw [State.fetched_pc]; omega⟩

theorem step_matches {s t : State} (hinv : s.Inv) (hr : Running s) (hs : step s = .next t) :
    TurnMatches s t (refTurn s.cfg.outHalts (s.prog.map BitVec.toNat) s.toRef) := by
  obtain ⟨hout, rfl⟩ | ⟨op, v, h0, h1, he⟩ := running_step_cases hr hs
  · rw [refTurn_of_outside (r := s.toRef) _ hout]
    exact ⟨rfl, rfl⟩
  · rw [refTurn_of_words (r := s.toRef) _ h0 h1]
    have hturn := exec_matches (fetched_advanceExact hinv h1) he
    rwa [turnMatches_fetched, State.toRef_fetched, State.fetched_cfg] at hturn

/-- Settles O47: outside the program both machines end; inside it, each instruction is the interpreter's turn. -/
theorem coreMatchesUnboundedInterpreter : Obligations.CoreMatchesUnboundedInterpreter :=
  fun _ _ => step_matches

end Sys2Proof.Machine
end

section
/-! PROOFS. What an instruction does, with the fault that the table of spec/60_exceptions.md R160 gives it: one inversion
lemma for the execute stage and one for the running step, and the statements that follow from them alone. -/

namespace Sys2Proof.Machine

/-! ## The state operations, seen through a combo operand, a register name or the pair at pc -/

@[simp] theorem State.retire_readReg (s : State) (r : Reg) : s.retire.readReg r = s.readReg r := by
  cases r <;> simp [State.readReg]

@[simp] theorem State.raiseFault_readReg (s : State) (f : CoreFault) (r : Reg) :
    (s.raiseFault f).readReg r = s.readReg r := by
  cases r <;> rfl

@[simp] theorem State.fetched_readReg (s : State) (op v : ProgWord) (r : Reg) :
    (s.fetched op v).readReg r = s.readReg r := by
  cases r <;> simp [State.readReg]

/-- With the jump-taken flag clear, `retire` is the advance by 2 (spec/40_sequencer.md R88). -/
theorem State.retire_of_jt_false {s : State} (h : s.jt = false) : s.retire = s.setPc (s.pc + 2) := by
  obtain ⟨⟩ := s
  cases h
  rfl

/-- With the jump-taken flag clear before it, a taken jump sets the pc and nothing else. -/
theorem State.jump_eq {s : State} (h : s.jt = false) (w : Word) : (s.setPc w).setJt.retire = s.setPc w := by
  obtain ⟨⟩ := s
  cases h
  rfl

/-- A fault depends on the registers, OUT and the configuration only. -/
theorem faultRaised_congr (i : Instr) {s t : State} (hreg : ∀ r, t.readReg r = s.readReg r) (hout : t.out = s.out)
    (hcfg : t.cfg = s.cfg) : faultRaised i t = faultRaised i s := by
  have hneg : ∀ o, countNegative o t = countNegative o s := by
    intro o
    cases o <;> simp [countNegative, hreg]
  cases i <;> simp [faultRaised, hneg, hout, hcfg]

@[simp] theorem faultRaised_fetched (i : Instr) (op v : ProgWord) (s : State) :
    faultRaised i (s.fetched op v) = faultRaised i s :=
  faultRaised_congr i (by simp) (by simp) (by simp)

/-- The pair at pc depends on the program store and the pc only. -/
theorem instrAtPc_congr {s t : State} (hprog : t.prog = s.prog) (hpc : t.pc = s.pc) : instrAtPc t = instrAtPc s := by
  simp [instrAtPc, hprog, hpc]

theorem instrAtPc_of_words {s : State} {op v : ProgWord} (h0 : s.prog[s.pc.toNat]? = some op)
    (h1 : s.prog[s.pc.toNat + 1]? = some v) : instrAtPc s = some (decodePair op v) := by
  simp [instrAtPc, h0, h1]

theorem instrAtPc_of_outside {s : State} (h : s.prog.length ≤ s.pc.toNat + 1) : instrAtPc s = none := by
  have h1 : s.prog[s.pc.toNat + 1]? = none := by simpa using h
  unfold instrAtPc
  rw [h1]
  split <;> simp_all

theorem atOut_iff {s : State} : atOut s = true ↔ ∃ o, instrAtPc s = some (.out o) := by
  unfold atOut
  split <;> simp_all

/-! ## The decoder at the words 3 and 5 (spec/30_encoding.md R65) -/

theorem decodePair_eq_jnz {op v w : ProgWord} : decodePair op v = .jnz w ↔ op = 3 ∧ v = w := by
  rcases ProgWord.eight_cases op with rfl | rfl | rfl | rfl | rfl | rfl | rfl | rfl <;> simp [decodePair]

theorem opcode_of_decodePair_eq_out {op v : ProgWord} {o : ComboOperand} (h : decodePair op v = .out o) : op = 5 := by
  rcases ProgWord.eight_cases op with rfl | rfl | rfl | rfl | rfl | rfl | rfl | rfl <;> simp_all [decodePair]

/-! ## The execute stage -/

/-- What executing `i` from `s` can lead to: the fault the table gives `i`; or, with no fault in the table, one of the
five effects of an instruction that completes. -/
inductive Executes (i : Instr) (s : State) : State → Prop
  | faults {f : CoreFault} (hf : faultRaised i s = some f) : Executes i s (s.raiseFault f)
  | writes {r : Reg} (w : Word) (hf : faultRaised i s = none) (hd : destination i = some r) :
      Executes i s (s.writeReg r w).retire
  | fallsThrough {v : ProgWord} (hi : i = .jnz v) (ha : s.a = 0) : Executes i s s.retire
  | jumps {v : ProgWord} (hi : i = .jnz v) (ha : s.a ≠ 0) : Executes i s (s.setPc (zext64 v)).setJt.retire
  | haltsOut {o : ComboOperand} (e : ProgWord) (hf : faultRaised i s = none) (hi : i = .out o)
      (hh : s.cfg.outHalts = true) : Executes i s ((s.emit e).halt .haltOut)
  | emits {o : ComboOperand} (e : ProgWord) (hf : faultRaised i s = none) (hi : i = .out o)
      (hh : s.cfg.outHalts = false) (hroom : s.cfg.outDepth ≠ some s.out.length) : Executes i s (s.emit e).retire

/-- The shared form of adv, bdv and cdv: their faults do not depend on the destination. -/
theorem divideInto_executes {i : Instr} {dest : Reg} {o : ComboOperand} (s : State) (hd : destination i = some dest)
    (hfault : faultRaised i s = faultRaised (.adv o) s) : ∃ t, divideInto dest o s = .next t ∧ Executes i s t := by
  obtain ⟨rfl, e⟩ | ⟨k, hk, hneg, e⟩ | ⟨k, hk, hpos, e⟩ := divideInto_cases dest o s
  · exact ⟨_, e, .faults hfault⟩
  all_goals
    have ho : o ≠ .reserved := fun h => by simp [(combo_eq_none o s).mpr h] at hk
    have hcount := combo_negative hk
  · exact ⟨_, e, .faults (hfault.trans (by simp [faultRaised, operandInvalid, ho, hcount.mp hneg]))⟩
  · exact ⟨_, e, .writes _ (hfault.trans (by simp [faultRaised, operandInvalid, ho, ← hcount, hpos])) hd⟩

theorem execBst_executes (o : ComboOperand) (s : State) : ∃ t, execBst o s = .next t ∧ Executes (.bst o) s t := by
  cases hk : combo o s with
  | none =>
    obtain rfl := (combo_eq_none o s).mp hk
    exact ⟨_, rfl, .faults rfl⟩
  | some k =>
    have ho : o ≠ .reserved := fun h => by simp [(combo_eq_none o s).mpr h] at hk
    exact ⟨_, by rw [execBst, hk], .writes _ (by simp [faultRaised, operandInvalid, ho]) rfl⟩

theorem execJnz_executes (v : ProgWord) (s : State) : ∃ t, execJnz v s = .next t ∧ Executes (.jnz v) s t := by
  rw [execJnz_eq]
  by_cases ha : s.a = 0
  · exact ⟨_, if_pos ha, .fallsThrough rfl ha⟩
  · exact ⟨_, if_neg ha, .jumps rfl ha⟩

theorem execOut_executes (o : ComboOperand) (s : State) : ∃ t, execOut o s = .next t ∧ Executes (.out o) s t := by
  cases hk : combo o s with
  | none =>
    obtain rfl := (combo_eq_none o s).mp hk
    exact ⟨_, rfl, .faults rfl⟩
  | some k =>
    have ho : o ≠ .reserved := fun h => by simp [(combo_eq_none o s).mpr h] at hk
    cases hh : s.cfg.outHalts with
    | true =>
      exact ⟨_, by simp [execOut, hk, hh], .haltsOut (low3 k) (by simp [faultRaised, operandInvalid, ho, hh]) rfl hh⟩
    | false =>
      by_cases hfull : s.cfg.outDepth = some s.out.length
      · exact ⟨_, by simp [execOut, hk, hh, State.outFull_iff, hfull],
          .faults (f := .outputOverflow) (by simp [faultRaised, operandInvalid, ho, hh, hfull])⟩
      · exact ⟨_, by simp [execOut, hk, hh, State.outFull_iff, hfull],
          .emits (low3 k) (by simp [faultRaised, operandInvalid, ho, hfull]) rfl hh hfull⟩

/-- Every instruction answers a next state in every state, and does there what its row of the table says. -/
theorem exec_executes (i : Instr) (s : State) : ∃ t, exec i s = .next t ∧ Executes i s t := by
  cases i with
  | adv o => exact divideInto_executes s rfl rfl
  | bdv o => exact divideInto_executes s rfl rfl
  | cdv o => exact divideInto_executes s rfl rfl
  | bxl v => exact ⟨_, rfl, .writes _ rfl rfl⟩
  | bxc v => exact ⟨_, rfl, .writes _ rfl rfl⟩
  | bst o => exact execBst_executes o s
  | jnz v => exact execJnz_executes v s
  | out o => exact execOut_executes o s

theorem executes_of_exec {i : Instr} {s t : State} (h : exec i s = .next t) : Executes i s t := by
  obtain ⟨u, hu, hex⟩ := exec_executes i s
  rw [hu] at h
  cases h
  exact hex

/-- Settles O16: an instruction with a destination faults, or writes that register and retires. -/
theorem aluFrame : Obligations.AluFrame := by
  intro i d s t hd h
  cases executes_of_exec h with
  | faults hf => exact ⟨fun r _ => by simp, .inr ⟨_, hf, rfl⟩, rfl, rfl, fun _ => rfl, rfl, rfl, rfl, .inl rfl⟩
  | @writes r w _ hr =>
    obtain rfl : r = d := by simpa [hr] using hd
    exact ⟨fun r' hne => by simp [State.readReg_writeReg, hne], .inl (by simp), by simp, by simp [State.progLen],
      State.memRead_congr (by simp), by simp, by simp, by simp, .inr (by simp)⟩
  | fallsThrough hi | jumps hi | haltsOut _ _ hi | emits _ _ hi =>
    subst hi
    cases hd

/-! ## The running step -/

theorem step_of_words {s : State} {op v : ProgWord} (hr : Running s) (h0 : s.prog[s.pc.toNat]? = some op)
    (h1 : s.prog[s.pc.toNat + 1]? = some v) : step s = exec (decodePair op v) (s.fetched op v) := by
  rw [step_of_running hr, runningStep_of_words exec h0 h1]

/-- A running step halts at the bounds check, or executes the pair at pc. -/
theorem running_step_executes {s t : State} (hr : Running s) (hs : step s = .next t) :
    (s.prog.length ≤ s.pc.toNat + 1 ∧ t = s.clearJt.halt .haltBounds) ∨
    (∃ op v, s.prog[s.pc.toNat]? = some op ∧ instrAtPc s = some (decodePair op v) ∧
      Executes (decodePair op v) (s.fetched op v) t) := by
  obtain hb | ⟨op, v, h0, h1, he⟩ := running_step_cases hr hs
  · exact .inl hb
  · exact .inr ⟨op, v, h0, instrAtPc_of_words h0 h1, executes_of_exec he⟩

/-- While STATE = RUNNING a step answers a next state. -/
theorem running_step_answers {s : State} (hr : Running s) : ∃ t, step s = .next t := by
  obtain ⟨op, v, h0, h1⟩ | hout := words_or_outside s
  · obtain ⟨t, ht, -⟩ := exec_executes (decodePair op v) (s.fetched op v)
    exact ⟨t, by rw [step_of_words hr h0 h1, ht]⟩
  · exact ⟨_, by rw [step_of_running hr, runningStep_of_outside exec hout]⟩

/-- Between runs the host's turn raises no fault of the model. -/
theorem hostTurn_ne_fault (s : State) (f : Fault) : hostTurn s ≠ .fault f := by
  unfold hostTurn
  split
  · simp
  · split <;> simp

/-- A reserved value in STATUS stops the step, and nothing else does. -/
theorem step_eq_fault_iff (s : State) (f : Fault) :
    step s = .fault f ↔ f = .reservedStatus ∧ statusLegal s.status = false := by
  cases hlegal : statusLegal s.status with
  | false => simp [step, cycle, hlegal, eq_comm]
  | true =>
    obtain hr | hr := running_or_atRest hlegal
    · obtain ⟨t, ht⟩ := running_step_answers hr
      simp [ht]
    · simp [step_of_atRest hr, hostTurn_ne_fault]

/-- Settles O23: a running step and the host's turn raise no fault, so only the test of STATUS is left. -/
theorem stepFaultsOnlyOnReservedStatus : Obligations.StepFaultsOnlyOnReservedStatus :=
  step_eq_fault_iff

/-- Settles O26, by what the pair at pc does. -/
theorem pcWriters : Obligations.PcWriters := by
  intro s t op v hr h0 h1 hs
  rw [step_of_words hr h0 h1] at hs
  cases executes_of_exec hs with
  | faults => simp
  | @writes r w _ hd =>
    have hop : op ≠ 3#3 := by
      rintro rfl
      cases hd
    simp [hr.1, hop]
  | fallsThrough _ ha =>
    have ha : s.a = 0#64 := by simpa using ha
    simp [hr.1, ha]
  | jumps hi ha =>
    obtain ⟨rfl, rfl⟩ := decodePair_eq_jnz.mp hi
    have ha : s.a ≠ 0#64 := by simpa using ha
    simp [hr.1, ha, zext64]
  | haltsOut => simp
  | emits _ _ hi => simp [hr.1, opcode_of_decodePair_eq_out hi]

/-- Settles O29: of all that a running step does, only an emission touches OUT. -/
theorem outGrowsOnlyByOut : Obligations.OutGrowsOnlyByOut := by
  intro s t hr hs
  obtain ⟨-, rfl⟩ | ⟨op, v, h0, -, he⟩ := running_step_executes hr hs
  · exact .inl rfl
  · cases he with
    | faults | writes | fallsThrough | jumps => exact .inl (by simp)
    | haltsOut e _ hi | emits e _ hi => exact .inr ⟨by rw [h0, opcode_of_decodePair_eq_out hi], e, by simp⟩

end Sys2Proof.Machine
end

section
/-! PROOFS. STATUS, and what a machine at rest does: the transitions of spec/10_state.md R33, the host's reads (R37) and the
run start, which leaves nothing of the state before it (R36, R38). -/

namespace Sys2Proof.Machine

/-! ## The layout of STATUS -/

/-- Settles O32: both parts are finite, 256 words of STATUS each. -/
theorem statusLayout : Obligations.StatusLayout :=
  ⟨by decide, by decide⟩

/-! ## The transitions of STATUS -/

/-- STATUS after the pair at pc: a fault's code, HALT_OUT at a halting `out`, and else as before. -/
theorem status_of_executes {i : Instr} {op v : ProgWord} {s t : State} (hi : instrAtPc s = some i)
    (h : Executes i (s.fetched op v) t) :
    t.status = match faultRaised i s with
      | some f => statusWord 2 3 f.code
      | none => if atOut s = true ∧ s.cfg.outHalts = true then statusWord 2 2 0 else s.status := by
  have notOut (hne : ∀ o, i ≠ .out o) : ¬ (atOut s = true ∧ s.cfg.outHalts = true) := by
    rintro ⟨hout, -⟩
    obtain ⟨o, ho⟩ := atOut_iff.mp hout
    exact hne o (Option.some.inj (hi.symm.trans ho))
  cases h with
  | faults hf =>
    rw [← faultRaised_fetched i op v s, hf]
    rfl
  | writes w hf hd =>
    rw [← faultRaised_fetched i op v s, hf]
    simp only [if_neg (notOut (by rintro o rfl; cases hd))]
    simp
  | fallsThrough hjnz | jumps hjnz =>
    subst hjnz
    simp only [faultRaised, if_neg (notOut (by simp))]
    simp
  | haltsOut e hf hout hh =>
    have hat : atOut s = true := atOut_iff.mpr ⟨_, hout ▸ hi⟩
    rw [State.fetched_cfg] at hh
    rw [← faultRaised_fetched i op v s, hf]
    simp only [if_pos (And.intro hat hh)]
    rfl
  | emits e hf hout hh =>
    rw [State.fetched_cfg] at hh
    rw [← faultRaised_fetched i op v s, hf]
    simp [hh]

/-- STATUS after a run start, as the load checks find (spec/10_state.md R33). -/
theorem runStart_status (l : Launch) (s : State) :
    (s.runStart l).status = (launchCheck l).elim statusRunning statusRefused := by
  obtain ⟨r, hc, e⟩ | ⟨hc, e⟩ := runStart_cases l s <;> rw [e, hc] <;> rfl

theorem status_of_run_start {s t : State} {l : Launch} {rest : List Launch} (hr : AtRest s) (hs : step s = .next t)
    (hl : s.launches = l :: rest) : t.status = (launchCheck l).elim statusRunning statusRefused := by
  obtain ⟨hnil, -⟩ | ⟨l', rest', hl', -, rfl⟩ := atRest_step_cases hr hs
  · simp [hl] at hnil
  · obtain ⟨rfl, -⟩ := List.cons.inj (hl.symm.trans hl')
    exact runStart_status l _

/-- Settles O33, by the four kinds of step. -/
theorem statusTransitions : Obligations.StatusTransitions := by
  intro s t hs
  refine ⟨fun hr hnone => ?_, fun hr i hi => ?_, fun hr hnil => ?_, fun hr l rest hl => ?_⟩
  · obtain ⟨-, rfl⟩ | ⟨op, v, -, hsome, -⟩ := running_step_executes hr hs
    · rfl
    · simp [hnone] at hsome
  · obtain ⟨hout, -⟩ | ⟨op, v, -, hsome, he⟩ := running_step_executes hr hs
    · simp [instrAtPc_of_outside hout] at hi
    · obtain rfl : decodePair op v = i := Option.some.inj (hsome.symm.trans hi)
      exact status_of_executes hi he
  · rw [step_of_atRest hr, hostTurn, hnil] at hs
    cases hs
    rfl
  · rw [status_of_run_start hr hs hl]
    refine ⟨fun hc => by rw [hc]; rfl, fun r hc => ?_⟩
    rw [hc]
    cases r <;> rfl

/-! ## The host's reads -/

theorem hostReadAtRest_of_atRest {α : Type} (answer : Host.Outcome α Fault Refusal) {s : State} (h : AtRest s) :
    hostReadAtRest answer s = answer := by
  obtain ⟨h1 | h1, h2⟩ := h <;> simp [hostReadAtRest, h2, runStateOf, h1]

theorem hostReadAtRest_of_running {α : Type} (answer : Host.Outcome α Fault Refusal) {s : State} (h : Running s) :
    hostReadAtRest answer s = .refused .hostAccessWhileRunning := by
  obtain ⟨h1, h2⟩ := h
  simp [hostReadAtRest, h2, runStateOf, h1]

theorem holdsNoValue_iff {s : State} :
    holdsNoValue s = true ↔ statusState s.status = 0 ∨ statusReason s.status = 4 := by
  simp [holdsNoValue]

/-- Settles O40: at rest every read answers, and its verdict is `holdsNoValue`. -/
theorem hostReads : Obligations.HostReads := by
  intro r s
  refine ⟨fun hr hno => ?_, fun hr hdone hreason => ?_, fun hr => ?_, fun i w hw => ?_⟩
  · have hv := holdsNoValue_iff.mpr hno
    simp [hostReadReg, hostReadPc, hostReadAtRest_of_atRest _ hr, registerReading, hv]
  · have hv : holdsNoValue s = false := by
      rw [Bool.eq_false_iff, Ne, holdsNoValue_iff, hdone]
      simpa using hreason
    simp [hostReadReg, hostReadPc, hostReadOut, hostReadAtRest_of_atRest _ hr, registerReading, hv]
  · exact ⟨hostReadAtRest_of_running _ hr, if_pos hr.2⟩
  · simp [hostReadProg, State.memRead, hw]

/-! ## The run start reads no part of the state before it -/

/-- A run start writes A, B, C and pc whether it loads or is refused. -/
theorem runStart_forgets_registers (l : Launch) (s : State) (a b c pc : Word) :
    ({ s with a := a, b := b, c := c, pc := pc } : State).runStart l = s.runStart l := by
  obtain ⟨r, hc, e⟩ | ⟨hc, e⟩ := runStart_cases l s <;> rw [e, State.runStart, hc] <;> rfl

/-- A run start that loads writes every part of the state but the run starts still to come (spec/10_state.md R38). -/
theorem runStart_forgets_state {l : Launch} (hc : launchCheck l = none) {s s' : State} (hl : s.launches = s'.launches) :
    s.runStart l = s'.runStart l := by
  simp [State.runStart, hc, State.loadLaunch, hl]

/-- Settles O44: with no run start to come the step keeps the state, and a run start writes all four. -/
theorem noValueIsNeverRead : Obligations.NoValueIsNeverRead := by
  intro s a b c pc hr _ s'
  have hr' : AtRest s' := hr
  rw [step_of_atRest hr, step_of_atRest hr']
  cases hl : s.launches with
  | nil =>
    have hl' : s'.launches = [] := hl
    simp [hostTurn, hl, hl']
  | cons l rest =>
    have hl' : s'.launches = l :: rest := hl
    have hforget := runStart_forgets_registers l { s with launches := rest } a b c pc
    simp only [hostTurn, hl, hl', ← hforget]
    simp [s']

/-- Settles O45: the host's turn is the same run start for both, or the same refusal of its configuration. -/
theorem runStartForgetsEarlierRun : Obligations.RunStartForgetsEarlierRun := by
  intro s s' l rest hr hr' hl hl' hc
  rw [step_of_atRest hr, step_of_atRest hr', hostTurn, hostTurn, hl, hl']
  simp only [runStart_forgets_state hc (s := { s with launches := rest }) (s' := { s' with launches := rest }) rfl]

end Sys2Proof.Machine
end

section
/-! PROOFS. The invariant of the machine (spec/10_state.md R28, R30, R33 to R35, spec/40_sequencer.md R90): the part of it
that does not speak of STATUS is kept by every state operation, and each end of a run records its REASON. -/

namespace Sys2Proof.Machine

/-! ## The part of the invariant that does not speak of STATUS -/

/-- The conjuncts of `State.Inv` that hold of the state whatever STATUS says. -/
structure State.Sound (s : State) : Prop where
  cfg : configValid s.cfg = true
  fits : s.prog.length ≤ s.cfg.progMax
  pc : s.pc.toNat ≤ max s.prog.length 7
  jt : s.jt = false
  depth : OutWithinDepth s
  untraced : s.cfg.traceEn = false → s.trace = []

theorem State.Inv.sound {s : State} (h : s.Inv) : s.Sound := by
  obtain ⟨-, hcfg, hfits, hpc, hjt, hdepth, -, -, -, huntraced⟩ := h
  exact ⟨hcfg, hfits, hpc, hjt, hdepth, huntraced⟩

/-- A state in a run: OUT is empty if OUT_HALTS, and there is nothing else to say of REASON. -/
theorem State.Sound.inv_of_running {s : State} (h : s.Sound) (hst : s.status = statusRunning)
    (hout : s.cfg.outHalts = true → s.out = []) : s.Inv :=
  ⟨by rw [hst]; decide, h.cfg, h.fits, h.pc, h.jt, h.depth, by simpa [OutByStatus, hst] using hout,
    by simp [ReasonRecorded, hst], by simp [hst], h.untraced⟩

/-- A state of an ended run. -/
theorem State.Sound.inv_of_done {s : State} (h : s.Sound) (hst : statusProduced s.status = true)
    (hdone : statusState s.status = 2) (hout : OutByStatus s) (hreason : ReasonRecorded s) : s.Inv :=
  ⟨hst, h.cfg, h.fits, h.pc, h.jt, h.depth, hout, hreason, by simp [hdone], h.untraced⟩

/-- RUNNING is produced with REASON = NONE and CODE = 0 only (R33). -/
theorem eq_statusRunning_of_produced {w : Status} (h : statusProduced w = true) (hrun : statusState w = 1) :
    w = statusRunning := by
  revert w
  decide

theorem State.Inv.status_of_running {s : State} (h : s.Inv) (hr : Running s) : s.status = statusRunning :=
  eq_statusRunning_of_produced h.1 hr.1

theorem State.Inv.out_of_running {s : State} (h : s.Inv) (hr : Running s) : s.cfg.outHalts = true → s.out = [] := by
  have hst := h.status_of_running hr
  obtain ⟨-, -, -, -, -, -, hout, -⟩ := h
  simpa [OutByStatus, hst] using hout

/-! ## The state operations keep it -/

theorem State.Sound.halt {s : State} (h : s.Sound) (r : HaltReason) : (s.halt r).Sound :=
  ⟨h.cfg, h.fits, h.pc, h.jt, h.depth, h.untraced⟩

theorem State.Sound.raiseFault {s : State} (h : s.Sound) (f : CoreFault) : (s.raiseFault f).Sound :=
  ⟨h.cfg, h.fits, h.pc, h.jt, h.depth, h.untraced⟩

theorem State.Sound.clearJt {s : State} (h : s.Sound) : s.clearJt.Sound :=
  ⟨h.cfg, h.fits, h.pc, rfl, h.depth, h.untraced⟩

theorem State.Sound.fetched {s : State} (h : s.Sound) (op v : ProgWord) : (s.fetched op v).Sound :=
  ⟨by simp [h.cfg], by simp [h.fits], by simpa using h.pc, by simp, by simpa [OutWithinDepth] using h.depth,
    fun hoff => by
      rw [State.fetched_cfg] at hoff
      simp [hoff, h.untraced hoff]⟩

theorem State.Sound.writeReg {s : State} (h : s.Sound) (r : Reg) (w : Word) : (s.writeReg r w).Sound := by
  cases r <;> exact ⟨h.cfg, h.fits, h.pc, h.jt, h.depth, h.untraced⟩

theorem State.Sound.setPc {s : State} (h : s.Sound) {w : Word} (hw : w.toNat ≤ max s.prog.length 7) :
    (s.setPc w).Sound :=
  ⟨h.cfg, h.fits, hw, h.jt, h.depth, h.untraced⟩

/-- An emission needs room in OUT (spec/43_output.md R154). -/
theorem State.Sound.emit {s : State} (h : s.Sound) (hroom : ∀ d, s.cfg.outDepth = some d → s.out.length < d)
    (e : ProgWord) : (s.emit e).Sound :=
  ⟨h.cfg, h.fits, h.pc, h.jt, outWithinDepth_iff.mpr (by simpa using hroom), h.untraced⟩

/-- The 64-bit sum pc + 2 is exact for an executing pc, since N is at most 2^63 (spec/10_state.md R28). -/
theorem State.Sound.toNat_pc_add_two {s : State} (h : s.Sound) (hb : s.pc.toNat + 1 < s.prog.length) :
    (s.pc + 2).toNat = s.pc.toNat + 2 := by
  have hmax := progMax_le_of_configValid h.cfg
  have hfits := h.fits
  rw [BitVec.toNat_add]
  exact Nat.mod_eq_of_lt (by simp only [BitVec.reduceToNat]; omega)

theorem State.Sound.retire {s : State} (h : s.Sound) (hb : s.pc.toNat + 1 < s.prog.length) : s.retire.Sound := by
  rw [State.retire_of_jt_false h.jt]
  exact h.setPc (by rw [h.toNat_pc_add_two hb]; omega)

/-- The target of a jump is a word, at most 7 (spec/42_control.md R141). -/
theorem State.Sound.jump {s : State} (h : s.Sound) (v : ProgWord) : (s.setPc (zext64 v)).setJt.retire.Sound := by
  rw [State.jump_eq h.jt]
  have hv := v.isLt
  exact h.setPc (by rw [zext64_toNat]; omega)

/-! ## The running step -/

/-- HALT_BOUNDS records that the bounds check failed. -/
theorem inv_haltBounds {s : State} (h : s.Sound) (hout : s.cfg.outHalts = true → s.out = [])
    (hb : s.prog.length ≤ s.pc.toNat + 1) : (s.halt .haltBounds).Inv :=
  (h.halt _).inv_of_done (statusProduced_halted _) (statusState_halted _)
    (by simpa [OutByStatus, HaltReason.code] using hout)
    (by simpa [ReasonRecorded, HaltReason.code, State.progLen] using hb)

/-- A fault records its pair and its code in the frozen state (spec/60_exceptions.md R163). -/
theorem inv_raiseFault {s : State} {i : Instr} {f : CoreFault} (h : s.Sound)
    (hout : s.cfg.outHalts = true → s.out = []) (hi : instrAtPc s = some i) (hf : faultRaised i s = some f) :
    (s.raiseFault f).Inv := by
  have hi' : instrAtPc (s.raiseFault f) = some i := (instrAtPc_congr rfl rfl).trans hi
  have hf' : faultRaised i (s.raiseFault f) = some f := (faultRaised_congr i (by simp) rfl rfl).trans hf
  exact (h.raiseFault f).inv_of_done (statusProduced_fault f) (statusState_fault f)
    (by simpa [OutByStatus] using hout) (by simp [ReasonRecorded, hi', hf'])

/-- OUT has room for the one entry of a run with OUT_HALTS: OUT_DEPTH is at least 1 (spec/00_scope.md R5). -/
theorem one_le_outDepth {cfg : Config} {d : Nat} (h : configValid cfg = true) (hd : cfg.outDepth = some d) : 1 ≤ d := by
  simp only [configValid, hd, Bool.and_eq_true, decide_eq_true_eq] at h
  exact h.1

/-- HALT_OUT leaves the pc at the `out` and one entry in OUT (spec/40_sequencer.md R89, R90). -/
theorem inv_haltOut {s : State} {o : ComboOperand} (h : s.Sound) (hh : s.cfg.outHalts = true) (hempty : s.out = [])
    (hi : instrAtPc s = some (.out o)) (e : ProgWord) : ((s.emit e).halt .haltOut).Inv := by
  have hroom : ∀ d, s.cfg.outDepth = some d → s.out.length < d := fun d hd => by
    simpa [hempty] using Nat.lt_of_succ_le (one_le_outDepth h.cfg hd)
  have hat : atOut ((s.emit e).halt .haltOut) = true := atOut_iff.mpr ⟨o, (instrAtPc_congr rfl rfl).trans hi⟩
  exact ((h.emit hroom e).halt _).inv_of_done (statusProduced_halted _) (statusState_halted _)
    (by simp [OutByStatus, HaltReason.code, hh, hempty]) (by simp [ReasonRecorded, HaltReason.code, hat])

/-- What the pair at pc does keeps the invariant. -/
theorem inv_of_executes {s t : State} {i : Instr} (h : s.Sound) (hst : s.status = statusRunning)
    (hout : s.cfg.outHalts = true → s.out = []) (hi : instrAtPc s = some i)
    (hb : s.pc.toNat + 1 < s.prog.length) (he : Executes i s t) : t.Inv := by
  cases he with
  | faults hf => exact inv_raiseFault h hout hi hf
  | @writes r w =>
    exact ((h.writeReg r w).retire (by simpa using hb)).inv_of_running (by simpa using hst) (by simpa using hout)
  | fallsThrough => exact (h.retire hb).inv_of_running (by simpa using hst) (by simpa using hout)
  | @jumps v => exact (h.jump v).inv_of_running (by simpa using hst) (by simpa using hout)
  | haltsOut e _ hio hh => exact inv_haltOut h hh (hout hh) (hio ▸ hi) e
  | emits e _ _ hh hroom =>
    have hlt : ∀ d, s.cfg.outDepth = some d → s.out.length < d := fun d hd =>
      lt_of_le_of_ne (outWithinDepth_iff.mp h.depth d hd) (fun heq => hroom (heq ▸ hd))
    exact ((h.emit hlt e).retire hb).inv_of_running (by simpa using hst) (by simp [hh])

theorem running_step_keeps_inv {s t : State} (h : s.Inv) (hr : Running s) (hs : step s = .next t) : t.Inv := by
  have hst := h.status_of_running hr
  have hout := h.out_of_running hr
  obtain ⟨hb, rfl⟩ | ⟨op, v, -, hi, he⟩ := running_step_executes hr hs
  · exact inv_haltBounds h.sound.clearJt hout hb
  · have hb : s.pc.toNat + 1 < s.prog.length := by
      by_contra hb
      simp [instrAtPc_of_outside (not_lt.mp hb)] at hi
    exact inv_of_executes (h.sound.fetched op v) (by simpa using hst) (by simpa using hout)
      ((instrAtPc_congr (by simp) (by simp)).trans hi) (by simpa using hb) he

/-! ## The host's turn -/

/-- No conjunct speaks of the run starts to come. -/
theorem inv_launches {s : State} {ls : List Launch} : ({ s with launches := ls } : State).Inv ↔ s.Inv := Iff.rfl

/-- A refusal keeps P and the configuration, and empties the rest. -/
theorem inv_refuseLaunch {s : State} (h : s.Inv) (r : LaunchRefusal) : (s.refuseLaunch r).Inv := by
  obtain ⟨-, hcfg, hfits, -⟩ := h
  have hsound : (s.refuseLaunch r).Sound :=
    ⟨hcfg, hfits, by simp [noValue], rfl, outWithinDepth_iff.mpr (by simp), fun _ => rfl⟩
  exact hsound.inv_of_done (statusProduced_refused r) (statusState_refused r) (by simp [OutByStatus])
    (by simp [ReasonRecorded])

theorem inv_loadLaunch {l : Launch} (s : State) (hv : configValid l.cfg = true) (hc : launchCheck l = none) :
    (s.loadLaunch l).Inv := by
  have hsound : (s.loadLaunch l).Sound :=
    ⟨hv, by simpa using progMax_of_launchCheck hc, by simp, rfl, outWithinDepth_iff.mpr (by simp), fun _ => rfl⟩
  exact hsound.inv_of_running rfl (fun _ => rfl)

theorem atRest_step_keeps_inv {s t : State} (h : s.Inv) (hr : AtRest s) (hs : step s = .next t) : t.Inv := by
  obtain ⟨-, rfl⟩ | ⟨l, rest, -, hv, rfl⟩ := atRest_step_cases hr hs
  · exact h
  · obtain ⟨r, -, e⟩ | ⟨hc, e⟩ := runStart_cases l { s with launches := rest } <;> rw [e]
    · exact inv_refuseLaunch (inv_launches.mpr h) r
    · exact inv_loadLaunch _ hv hc

/-! ## The statements -/

/-- Settles O42: a running step and the host's turn each keep the invariant. -/
theorem stepKeepsInvariant : Obligations.StepKeepsInvariant := by
  intro s t h hs
  obtain hr | hr := running_or_atRest (legal_of_step hs)
  · exact running_step_keeps_inv h hr hs
  · exact atRest_step_keeps_inv h hr hs

/-- Settles O43: the reset state is one state, and the run starts to come are no matter to the invariant. -/
theorem resetMeetsInvariant : Obligations.ResetMeetsInvariant :=
  fun _ => inv_launches.mpr (by decide)

/-- Settles O27: the bounds check and N ≤ 2^63 leave room for the advance. -/
theorem advanceNeverWraps : Obligations.AdvanceNeverWraps := by
  intro s h hb
  have hlt := State.inBounds_iff.mp hb
  have hexact := h.sound.toNat_pc_add_two hlt
  exact ⟨Nat.succ_le_of_lt hlt, hexact, (s.pc + 2).isLt⟩

end Sys2Proof.Machine
end

section
/-! PROOFS. What a running step leaves unchanged (spec/20_memory.md). -/

namespace Sys2Proof.Machine

/-- A running step writes neither the program store, nor the configuration, nor the pending run starts: the bounds
check only halts, and the fetched instruction runs on a state that has all three (spec/20_memory.md R47, R50). -/
theorem running_step_keeps_store {s t : State} (hr : Running s) (hs : step s = .next t) :
    t.prog = s.prog ∧ t.cfg = s.cfg ∧ t.launches = s.launches := by
  obtain ⟨-, rfl⟩ | ⟨op, v, -, -, he⟩ := running_step_cases hr hs
  · simp
  · obtain ⟨hprog, hcfg, hlaunches, -⟩ := exec_keeps_store he
    simp [hprog, hcfg, hlaunches]

/-- Settles O25: the store is kept as a whole, so every read of it answers the same. -/
theorem programReadOnlyDuringRun : Obligations.ProgramReadOnlyDuringRun := by
  intro s t hr hs
  obtain ⟨hprog, hcfg, hlaunches⟩ := running_step_keeps_store hr hs
  exact ⟨hprog, State.memRead_congr hprog, hcfg, hlaunches⟩

end Sys2Proof.Machine
end

section
/-! PROOFS. The decoder and the encoder (spec/30_encoding.md sections 1 to 3): an operand word and a combo operand, a
pair of words and an instruction, a packed value and an instruction, each there and back. -/

namespace Sys2Proof

/-! ## Combo operands -/

theorem ComboOperand.ofWord_toWord {o : ComboOperand} (h : o.WellFormed = true) : ofWord o.toWord = o := by
  cases o with
  | literal v => revert v; decide
  | register r => cases r <;> rfl
  | reserved => rfl

theorem ComboOperand.toWord_ofWord (v : ProgWord) : (ofWord v).toWord = v := by
  rcases Machine.ProgWord.eight_cases v with rfl | rfl | rfl | rfl | rfl | rfl | rfl | rfl <;> rfl

theorem ComboOperand.wellFormed_ofWord (v : ProgWord) : (ofWord v).WellFormed = true := by
  rcases Machine.ProgWord.eight_cases v with rfl | rfl | rfl | rfl | rfl | rfl | rfl | rfl <;> rfl

theorem ComboOperand.ofWord_eq_reserved_iff {v : ProgWord} : ofWord v = .reserved ↔ v = 7 := by
  revert v
  decide

/-! ## Pairs of words -/

/-- Only the operand can fail to come back: a combo immediate of 4 or more spells another operand (R64). -/
theorem decodePair_opcode_operand {i : Instr} (h : i.WellFormed = true) : decodePair i.opcode i.operand = i := by
  cases i with
  | bxl v | jnz v | bxc v => rfl
  | adv o | bst o | out o | bdv o | cdv o =>
    have ho : o.WellFormed = true := h
    simp [Instr.opcode, Instr.operand, decodePair, ComboOperand.ofWord_toWord ho]

theorem opcode_decodePair (op v : ProgWord) : (decodePair op v).opcode = op := by
  rcases Machine.ProgWord.eight_cases op with rfl | rfl | rfl | rfl | rfl | rfl | rfl | rfl <;> rfl

theorem operand_decodePair (op v : ProgWord) : (decodePair op v).operand = v := by
  rcases Machine.ProgWord.eight_cases op with rfl | rfl | rfl | rfl | rfl | rfl | rfl | rfl <;>
    simp [decodePair, Instr.operand, ComboOperand.toWord_ofWord]

theorem wellFormed_decodePair (op v : ProgWord) : (decodePair op v).WellFormed = true := by
  rcases Machine.ProgWord.eight_cases op with rfl | rfl | rfl | rfl | rfl | rfl | rfl | rfl <;>
    simp [decodePair, Instr.WellFormed, ComboOperand.wellFormed_ofWord]

theorem decode_encode_append (i : Instr) (rest : List ProgWord) :
    decode (encode i ++ rest) = .ok (decodePair i.opcode i.operand, rest) := rfl

/-! ## Packed values -/

theorem packedOp_packed (i : Instr) : packedOp i.packed = i.opcode := by
  have hv := i.operand.isLt
  have hdiv : i.packed / 8 = i.opcode.toNat := by unfold Instr.packed; omega
  rw [packedOp, hdiv, BitVec.ofNat_toNat, BitVec.setWidth_eq]

theorem packedOperand_packed (i : Instr) : packedOperand i.packed = i.operand := by
  have hv := i.operand.isLt
  apply BitVec.eq_of_toNat_eq
  simp only [packedOperand, Instr.packed, BitVec.toNat_ofNat]
  omega

theorem decodeTableWord_packed (i : Instr) : decodeTableWord 8 i.packed = some (decodePair i.opcode i.operand) := by
  have hlt := Laws.TwoWords.packed_lt i
  have hmod : i.packed % 2 ^ 8 = i.packed := Nat.mod_eq_of_lt (by omega)
  simp only [decodeTableWord, hmod, if_pos hlt, packedOp_packed, packedOperand_packed]
  rfl

/-- Settles O1: forth by the operand's round trip, back by the two words' round trips. -/
theorem decodeInvertsEncode : Obligations.DecodeInvertsEncode := by
  refine ⟨fun i rest hwf => ?_, fun op v => ?_⟩
  · rw [decode_encode_append, decodeTableWord_packed, decodePair_opcode_operand hwf]
    exact ⟨rfl, rfl⟩
  · have hwords : encode (decodePair op v) = [op, v] := by simp [encode, opcode_decodePair, operand_decodePair]
    exact ⟨hwords, wellFormed_decodePair op v, by rw [Instr.packed, opcode_decodePair, operand_decodePair]⟩

/-- Settles O3: closed facts, read off the decoder. -/
theorem specWordsDecode : Obligations.SpecWordsDecode := by
  unfold Obligations.SpecWordsDecode
  decide

/-! ## What the decoder rejects (spec/30_encoding.md R60, R69) -/

/-- The program words of host integers: all of them, or the name of one that no word can hold. -/
theorem ProgWord.listOfHost_cases (ns : List Int) :
    (∃ ws, listOfHost ns = .ok ws ∧ ∀ n ∈ ns, 0 ≤ n ∧ n ≤ 7) ∨
    (∃ n ∈ ns, listOfHost ns = .error (.outsideWord n) ∧ ¬ (0 ≤ n ∧ n ≤ 7)) := by
  induction ns with
  | nil => exact .inl ⟨[], rfl, by simp⟩
  | cons n rest ih =>
    by_cases hn : 0 ≤ n ∧ n ≤ 7
    · have hword : ofHost n = .ok (BitVec.ofInt 3 n) := if_pos hn
      obtain ⟨ws, hrest, hall⟩ | ⟨m, hm, hrest, hbad⟩ := ih
      · exact .inl ⟨_ :: ws, by rw [listOfHost, hword, hrest], List.forall_mem_cons.mpr ⟨hn, hall⟩⟩
      · exact .inr ⟨m, .tail n hm, by rw [listOfHost, hword, hrest], hbad⟩
    · have hword : ofHost n = .error (.outsideWord n) := if_neg hn
      exact .inr ⟨n, .head rest, by rw [listOfHost, hword], hn⟩

theorem decode_of_length_lt_two : ∀ ws : List ProgWord, ws.length < 2 → decode ws = .error .incompletePair
  | [], _ | [_], _ => rfl

/-- Once the integers are words, none of them is named any more. -/
theorem decode_ne_outsideWord (n : Int) : ∀ ws : List ProgWord, decode ws ≠ .error (.outsideWord n)
  | [] | [_] | _ :: _ :: _ => nofun

/-- Settles O2: the host's integers are refused by `listOfHost`, which names one, or become words, which `decode` reads
or finds too few. -/
theorem decoderRejectsOnlyByName : Obligations.DecoderRejectsOnlyByName := by
  refine ⟨fun _ _ _ => rfl, decode_of_length_lt_two, fun ns => ?_⟩
  obtain ⟨ws, hok, hall⟩ | ⟨n, hn, herr, hbad⟩ := ProgWord.listOfHost_cases ns
  · have hdecode : decodeHost ns = decode ws := by rw [decodeHost, hok]
    rw [hdecode]
    exact ⟨fun ⟨n, h⟩ => absurd h (decode_ne_outsideWord n ws), fun ⟨n, hn, hbad⟩ => absurd (hall n hn) hbad⟩
  · exact ⟨fun _ => ⟨n, hn, hbad⟩, fun _ => ⟨n, by rw [decodeHost, herr]⟩⟩

end Sys2Proof
end

section
/-! PROOFS. The reserved pairs (spec/30_encoding.md R67): which instructions and which pairs of words they are, and when
the execute stage leaves a fault in STATUS. -/

namespace Sys2Proof.Machine

/-! ## The reserved instructions -/

/-- The instructions with the reserved combo operand. -/
def reservedInstrs : List Instr :=
  [.adv .reserved, .bst .reserved, .out .reserved, .bdv .reserved, .cdv .reserved]

/-- A reserved operand faults in every state, and no other condition raises the same fault (R161). -/
theorem faultRaised_eq_invalidComboOperand_iff {i : Instr} {s : State} :
    faultRaised i s = some .invalidComboOperand ↔ i ∈ reservedInstrs := by
  cases i with
  | bxl v | jnz v | bxc v => simp [faultRaised, reservedInstrs]
  | adv o | bst o | out o | bdv o | cdv o =>
    by_cases ho : o = .reserved <;> simp [faultRaised, operandInvalid, reservedInstrs, ho]

/-- The five pairs of R67, as words. -/
theorem decodePair_mem_reservedInstrs_iff {op v : ProgWord} :
    decodePair op v ∈ reservedInstrs ↔
      (op, v) ∈ [((0 : ProgWord), (7 : ProgWord)), (2, 7), (5, 7), (6, 7), (7, 7)] := by
  rcases ProgWord.eight_cases op with rfl | rfl | rfl | rfl | rfl | rfl | rfl | rfl <;>
    simp [decodePair, reservedInstrs, ComboOperand.ofWord_eq_reserved_iff]

/-! ## The fault of the table, and STATUS after it -/

/-- The tabled fault is the one taken, and it is precise (spec/60_exceptions.md R160). -/
theorem exec_of_faultRaised {i : Instr} {s : State} {f : CoreFault} (h : faultRaised i s = some f) :
    exec i s = .next (s.raiseFault f) := by
  obtain ⟨t, ht, hex⟩ := exec_executes i s
  cases hex with
  | faults hf =>
    obtain rfl := Option.some.inj (hf.symm.trans h)
    exact ht
  | writes _ hf | haltsOut _ hf | emits _ hf => simp [hf] at h
  | fallsThrough hi | jumps hi =>
    subst hi
    simp [faultRaised] at h

theorem statusReason_statusFault (f : CoreFault) : statusReason (statusFault f) = 3 := by cases f <;> decide
theorem statusReason_statusHalted_ne (h : HaltReason) : statusReason (statusHalted h) ≠ 3 := by cases h <;> decide

theorem statusFault_inj {f g : CoreFault} : statusFault f = statusFault g ↔ f = g := by
  cases f <;> cases g <;> decide

/-- A REASON that was not FAULT becomes FAULT only by the tabled fault. -/
theorem faultRaised_of_status {i : Instr} {s t : State} {f : CoreFault} (h : Executes i s t)
    (hs : statusReason s.status ≠ 3) (ht : t.status = statusFault f) : faultRaised i s = some f := by
  have hkept : s.status ≠ statusFault f := fun e => hs (e ▸ statusReason_statusFault f)
  cases h with
  | faults hf => rwa [← statusFault_inj.mp ht]
  | writes | fallsThrough | jumps | emits => exact absurd (by simpa using ht) hkept
  | haltsOut => exact absurd (statusReason_statusFault f) (ht.symm ▸ statusReason_statusHalted_ne .haltOut)

/-- Settles O4: InvalidComboOperand is the tabled fault of exactly the five pairs. -/
theorem reservedPairCensus : Obligations.ReservedPairCensus := by
  intro op v
  split
  case isTrue hmem =>
    have hres : decodePair op v ∈ reservedInstrs := decodePair_mem_reservedInstrs_iff.mpr hmem
    exact fun s => exec_of_faultRaised (f := .invalidComboOperand) (faultRaised_eq_invalidComboOperand_iff.mpr hres)
  case isFalse hmem =>
    intro s t hs ht hstatus
    have hfault : faultRaised (decodePair op v) s = some .invalidComboOperand :=
      faultRaised_of_status (executes_of_exec ht) hs hstatus
    exact hmem (decodePair_mem_reservedInstrs_iff.mp (faultRaised_eq_invalidComboOperand_iff.mp hfault))

end Sys2Proof.Machine
end

section
/-! PROOFS. The assembly notation (spec/30_encoding.md R72, R74): each part of a line is read back, then the line, then
the listing. -/

namespace Sys2Proof.Machine

/-! ## The two parts of a line -/

theorem mnemonicWord_mnemonicText (op : ProgWord) : mnemonicWord (mnemonicText op) = some op := by
  revert op
  decide

theorem digitWord_digitText (v : ProgWord) : digitWord [digitText v] = some v := by
  revert v
  decide

theorem mnemonicText_ne_nil (op : ProgWord) : mnemonicText op ≠ [] := by
  revert op
  decide

/-- A mnemonic neither ends the part being read nor begins a comment. -/
theorem mnemonicText_plain (op : ProgWord) : ' ' ∉ mnemonicText op ∧ ';' ∉ mnemonicText op := by
  revert op
  decide

theorem digitText_plain (v : ProgWord) : digitText v ≠ ' ' ∧ digitText v ≠ ';' := by
  revert v
  decide

/-! ## One line -/

/-- Characters other than the separator join the piece being read. -/
theorem splitAt_append {sep : Char} {t : List Char} (h : sep ∉ t) (acc rest : List Char) :
    splitAt sep acc (t ++ rest) = splitAt sep (t.reverse ++ acc) rest := by
  induction t generalizing acc with
  | nil => rfl
  | cons ch t ih =>
    obtain ⟨hch, ht⟩ := not_or.mp (List.mem_cons.not.mp h)
    simp [splitAt, Ne.symm hch, ih ht]

/-- A piece, the separator and one more character are split in two. -/
theorem splitAt_two {sep d : Char} {t : List Char} (ht : sep ∉ t) (hne : t ≠ []) (hd : d ≠ sep) :
    splitAt sep [] (t ++ [sep, d]) = [t, [d]] := by
  rw [splitAt_append ht]
  simp [splitAt, hne, hd]

theorem lineText_no_comment (i : Instr) : (lineText i).takeWhile (fun ch => ch != ';') = lineText i := by
  have hline : ';' ∉ lineText i := by
    simp [lineText, (mnemonicText_plain i.opcode).2, (digitText_plain i.operand).2.symm]
  rw [List.takeWhile_eq_self_iff]
  exact fun ch hch => bne_iff_ne.mpr fun e => hline (e ▸ hch)

theorem assembleLine_lineText (i : Instr) : assembleLine (lineText i) = some (encode i) := by
  have hsplit : splitAt ' ' [] (lineText i) = [mnemonicText i.opcode, [digitText i.operand]] :=
    splitAt_two (mnemonicText_plain i.opcode).1 (mnemonicText_ne_nil i.opcode) (digitText_plain i.operand).1
  simp [assembleLine, lineText_no_comment, hsplit, mnemonicWord_mnemonicText, digitWord_digitText, encode]

/-! ## Listings -/

theorem assemble_map_lineText (is : List Instr) : assemble (is.map lineText) = some (is.flatMap encode) := by
  induction is with
  | nil => rfl
  | cons i is ih => simp [assemble, assembleLine_lineText, ih]

theorem disassemble_encode_append (i : Instr) (ws : List ProgWord) :
    disassemble (encode i ++ ws) = decodePair i.opcode i.operand :: disassemble ws := rfl

theorem disassemble_flatMap_encode {is : List Instr} (h : ∀ i ∈ is, i.WellFormed = true) :
    disassemble (is.flatMap encode) = is := by
  induction is with
  | nil => rfl
  | cons i is ih =>
    obtain ⟨hi, his⟩ := List.forall_mem_cons.mp h
    rw [List.flatMap_cons, disassemble_encode_append, decodePair_opcode_operand hi, ih his]

/-- Settles O55: every line is read back as its instruction's words, and every well-formed pair as its instruction. -/
theorem assembleInvertsListing : Obligations.AssembleInvertsListing :=
  fun is hwf => ⟨assemble_map_lineText is, disassemble_flatMap_encode hwf⟩

end Sys2Proof.Machine
end

section
/-! PROOFS. The running step around an instruction (spec/40_sequencer.md sections 1 to 4, 7): the bounds check, the fetch of the
pair, its trace record and its execution, and the placing of a pair where the next step fetches. -/

namespace Sys2Proof.Machine

/-! ## The combo operand -/

/-- Settles O5, by the eight operand words. -/
theorem comboOperandTable : Obligations.ComboOperandTable := by
  intro v s
  rcases ProgWord.eight_cases v with rfl | rfl | rfl | rfl | rfl | rfl | rfl | rfl <;> rfl

/-! ## The fetch -/

/-- The state an instruction sees, as a record update. -/
theorem State.fetched_eq (op v : ProgWord) (s : State) :
    s.fetched op v =
      { s with jt := false, trace := if s.cfg.traceEn then s.trace ++ [s.traceRecord op v] else s.trace } := by
  rw [State.fetched, State.traced_eq]
  rfl

theorem State.clearJt_of_jt_false {s : State} (h : s.jt = false) : s.clearJt = s := by
  obtain ⟨⟩ := s
  cases h
  rfl

theorem State.fetched_of_jt_false {s : State} (h : s.jt = false) (op v : ProgWord) : s.fetched op v = s.traced op v := by
  rw [State.fetched, State.clearJt_of_jt_false h]

theorem State.fetched_of_traceEn_false {s : State} (h : s.cfg.traceEn = false) (op v : ProgWord) :
    s.fetched op v = s.clearJt := by
  rw [State.fetched_eq, h]
  rfl

theorem State.memRead_of_word {s : State} {i : Nat} {w : ProgWord} (h : s.prog[i]? = some w) : s.memRead i = .ok w := by
  simp [State.memRead, h]

/-- Settles O21: the fetched state is the one the statement writes out. -/
theorem stepRunsDecodedPair : Obligations.StepRunsDecodedPair := by
  intro s op v hr h0 h1
  rw [step_of_words hr h0 h1, State.fetched_eq]
  rfl

/-! ## The bounds check -/

theorem running_of_status {s : State} (h : s.status = statusRunning) : Running s := by
  rw [Running, h]
  decide

theorem step_of_outside {s : State} (hr : Running s) (h : s.prog.length ≤ s.pc.toNat + 1) :
    step s = .next (s.clearJt.halt .haltBounds) := by
  rw [step_of_running hr, runningStep_of_outside exec h]

/-- Settles O22: the step outside the bounds, the step on a pair inside them, and the parity of pc and N. -/
theorem boundsCheckHalts : Obligations.BoundsCheckHalts := by
  intro s hr hjt
  refine ⟨fun hout => ?_, fun hin => ?_, fun hpc hlen => ?_⟩
  · rw [step_of_outside hr (not_lt.mp hout), State.clearJt_of_jt_false hjt]
    rfl
  · obtain ⟨op, v, h0, h1, -⟩ := State.fetch_of_inBounds (State.inBounds_iff.mpr hin)
    refine ⟨op, v, State.memRead_of_word h0, State.memRead_of_word h1, ?_⟩
    rw [step_of_words hr h0 h1, State.fetched_of_jt_false hjt]
  · have htest : s.inBounds = true ↔ s.pc.toNat + 1 < s.progLen := State.inBounds_iff
    rw [htest]
    omega

/-! ## The trace port -/

/-- Settles O28: a failed bounds check sends nothing, and no instruction writes the stream after its fetch. -/
theorem traceRecordPerFetch : Obligations.TraceRecordPerFetch := by
  intro s t hr hs
  obtain ⟨hout, rfl⟩ | ⟨op, v, h0, h1, he⟩ := running_step_cases hr hs
  · refine ⟨fun op v h0 h1 => ?_, fun _ => rfl⟩
    have hin := (List.getElem?_eq_some_iff.mp h1).1
    omega
  · obtain ⟨-, -, -, htrace⟩ := exec_keeps_store he
    rw [htrace, State.fetched_trace]
    refine ⟨fun op' v' h0' h1' hon => ?_, fun hnone => ?_⟩
    · obtain rfl := Option.some.inj (h0.symm.trans h0')
      obtain rfl := Option.some.inj (h1.symm.trans h1')
      exact if_pos hon
    · have hin : s.pc.toNat + 1 < s.progLen := (List.getElem?_eq_some_iff.mp h1).1
      have hoff : s.cfg.traceEn = false := hnone.resolve_left (by omega)
      simp [hoff]

/-! ## The ends of a run -/

/-- STATUS after a running step: a halt's, a fault's, or as before (spec/10_state.md R33). -/
theorem status_of_running_step {s t : State} (hr : Running s) (hs : step s = .next t) :
    (∃ h, t.status = statusHalted h) ∨ (∃ f, t.status = statusFault f) ∨ t.status = s.status := by
  obtain ⟨-, rfl⟩ | ⟨op, v, -, -, he⟩ := running_step_executes hr hs
  · exact .inl ⟨.haltBounds, rfl⟩
  · cases he with
    | faults => exact .inr (.inl ⟨_, rfl⟩)
    | haltsOut => exact .inl ⟨.haltOut, rfl⟩
    | writes | fallsThrough | jumps | emits => exact .inr (.inr (by simp))

/-- Settles O30: of all that a running step does, only the halting `out` leaves REASON = HALT_OUT. -/
theorem haltOutKeepsPc : Obligations.HaltOutKeepsPc := by
  intro s t hr hreason hs ht
  obtain ⟨-, rfl⟩ | ⟨op, v, h0, -, he⟩ := running_step_executes hr hs
  · simp [HaltReason.code] at ht
  · cases he with
    | haltsOut e _ hi hh =>
      rw [State.fetched_cfg] at hh
      exact ⟨hh, by simp, by simp [h0, opcode_of_decodePair_eq_out hi], e, by simp⟩
    | faults => simp at ht
    | writes | fallsThrough | jumps | emits => simp [hreason] at ht

/-! ## A pair placed where the next step fetches -/

/-- Placing a pair leaves a running machine whose pair at pc it is; the configuration stays. -/
theorem State.placePair_spec (op v : ProgWord) (s : State) :
    (s.placePair op v).status = statusRunning ∧ (s.placePair op v).cfg = s.cfg ∧
    (s.placePair op v).prog[(s.placePair op v).pc.toNat]? = some op ∧
    (s.placePair op v).prog[(s.placePair op v).pc.toNat + 1]? = some v := by
  unfold State.placePair
  split
  case isTrue h =>
    obtain ⟨hst, hb⟩ := h
    have hin := State.inBounds_iff.mp hb
    exact ⟨hst, rfl, by simp [show s.pc.toNat < s.prog.length by omega], by simp [hin]⟩
  case isFalse => exact ⟨rfl, rfl, rfl, rfl⟩

/-- A packed value that decodes is the pair of its two words (spec/30_encoding.md R61). -/
theorem eq_decodePair_of_decodeTableWord {n w : Nat} {i : Instr} (h : decodeTableWord n w = some i) :
    i = decodePair (packedOp (w % 2 ^ n)) (packedOperand (w % 2 ^ n)) := by
  simp only [decodeTableWord] at h
  split at h
  · exact (Option.some.inj h).symm
  · cases h

/-- Settles O56: the placed pair is at pc, and without TRACE_EN the fetch only clears the jump-taken flag. -/
theorem placedInstructionRuns : Obligations.PlacedInstructionRuns := by
  intro s w i hi hoff
  obtain ⟨hst, hcfg, h0, h1⟩ := s.placePair_spec (packedOp (w % 2 ^ 8)) (packedOperand (w % 2 ^ 8))
  rw [step_of_words (running_of_status (s := s.withFetchWord 8 w) hst) h0 h1,
    ← eq_decodePair_of_decodeTableWord hi, State.fetched_of_traceEn_false (by rw [State.withFetchWord, hcfg, hoff])]
  rfl

end Sys2Proof.Machine
end

section
/-! PROOFS. The run start (spec/40_sequencer.md R91, spec/60_exceptions.md R167): what the load checks find, in their order,
and the host's turn that makes it. -/

namespace Sys2Proof.Machine

/-! ## The word check and the register checks -/

theorem inWord_iff {n : Int} : inWord n = true ↔ 0 ≤ n ∧ n ≤ 7 := decide_eq_true_iff

theorem inRange64_iff {n : Int} : inRange64 n = true ↔ -(2 ^ 63) ≤ n ∧ n ≤ 2 ^ 63 - 1 := decide_eq_true_iff

/-- The word check is the library's search, counted from `start`. -/
theorem firstBadWord_eq_findIdx? (start : Nat) (ns : List Int) :
    firstBadWord start ns = (ns.findIdx? (fun n => !inWord n)).map (· + start) := by
  induction ns generalizing start with
  | nil => rfl
  | cons n ns ih =>
    cases hn : inWord n with
    | false => simp [firstBadWord, List.findIdx?_cons, hn]
    | true =>
      simp [firstBadWord, List.findIdx?_cons, hn, ih, Function.comp_def, Nat.add_comm, Nat.add_left_comm]

theorem firstBadWord_eq_none_iff {ns : List Int} : firstBadWord 0 ns = none ↔ ∀ n ∈ ns, 0 ≤ n ∧ n ≤ 7 := by
  simp [firstBadWord_eq_findIdx?, inWord_iff]

/-- The index found holds a bad word, and every word before it is good. -/
theorem firstBadWord_eq_some_iff {ns : List Int} {i : Nat} :
    firstBadWord 0 ns = some i ↔
      (∃ n, ns[i]? = some n ∧ ¬ (0 ≤ n ∧ n ≤ 7)) ∧ ∀ j n, j < i → ns[j]? = some n → 0 ≤ n ∧ n ≤ 7 := by
  have hword (n : Int) : inWord n = false ↔ ¬ (0 ≤ n ∧ n ≤ 7) := by rw [Bool.eq_false_iff, Ne, inWord_iff]
  simp only [firstBadWord_eq_findIdx?, Nat.add_zero, Option.map_id', List.findIdx?_eq_some_iff_getElem,
    Bool.not_eq_true', hword, not_not, List.getElem?_eq_some_iff]
  constructor
  · rintro ⟨hi, hbad, hgood⟩
    exact ⟨⟨_, ⟨hi, rfl⟩, hbad⟩, fun j n hj ⟨_, hn⟩ => hn ▸ hgood j hj⟩
  · rintro ⟨⟨n, ⟨hi, rfl⟩, hbad⟩, hgood⟩
    exact ⟨hi, hbad, fun j hj => hgood j _ hj ⟨by omega, rfl⟩⟩

/-- The register checks find the first register out of range, in the order A, B, C. -/
theorem checkRegisters_eq_some_iff {l : Launch} {r : LaunchRefusal} :
    checkRegisters l = some r ↔
      (r = .registerOutOfRange .a ∧ inRange64 l.a0 = false) ∨
      (r = .registerOutOfRange .b ∧ inRange64 l.a0 = true ∧ inRange64 l.b0 = false) ∨
      (r = .registerOutOfRange .c ∧ inRange64 l.a0 = true ∧ inRange64 l.b0 = true ∧ inRange64 l.c0 = false) := by
  unfold checkRegisters
  cases inRange64 l.a0 <;> cases inRange64 l.b0 <;> cases inRange64 l.c0 <;> simp [eq_comm]

theorem checkRegisters_eq_none_iff {l : Launch} :
    checkRegisters l = none ↔ inRange64 l.a0 = true ∧ inRange64 l.b0 = true ∧ inRange64 l.c0 = true := by
  unfold checkRegisters
  cases inRange64 l.a0 <;> cases inRange64 l.b0 <;> cases inRange64 l.c0 <;> simp

/-! ## The load check -/

/-- The load check stops at the length, at a word, or at the registers (R91). -/
theorem launchCheck_cases (l : Launch) :
    (l.cfg.progMax < l.program.length ∧ launchCheck l = some .programTooLong) ∨
    (∃ i, l.program.length ≤ l.cfg.progMax ∧ firstBadWord 0 l.program = some i ∧
      launchCheck l = some (.invalidProgramWord i)) ∨
    (l.program.length ≤ l.cfg.progMax ∧ firstBadWord 0 l.program = none ∧ launchCheck l = checkRegisters l) := by
  unfold launchCheck
  split
  case isTrue hlong => exact .inl ⟨hlong, rfl⟩
  case isFalse hfits =>
    cases firstBadWord 0 l.program with
    | some i => exact .inr (.inl ⟨i, not_lt.mp hfits, rfl, rfl⟩)
    | none => exact .inr (.inr ⟨not_lt.mp hfits, rfl, rfl⟩)

/-- Settles O38: at each of the three places where the check stops, two of the three reports are ruled out. -/
theorem loadCheckOrder : Obligations.LoadCheckOrder := by
  intro l
  simp only [← firstBadWord_eq_some_iff, ← firstBadWord_eq_none_iff]
  obtain ⟨hlong, e⟩ | ⟨i, hfits, hbad, e⟩ | ⟨hfits, hgood, e⟩ := launchCheck_cases l
  · simp [e, hlong, not_le.mpr hlong]
  · simp [e, hfits, hbad]
  · refine ⟨by simp [e, hfits, checkRegisters_eq_some_iff], by simp [e, hgood, checkRegisters_eq_some_iff], fun r => ?_⟩
    cases r <;> simp [e, hfits, hgood, checkRegisters_eq_some_iff]

/-- A valid launch passes every check (spec/70_reset_and_hazards.md R199). -/
theorem launchCheck_of_validLaunch {l : Launch} (h : ValidLaunch l) : launchCheck l = none := by
  obtain ⟨hfits, hwords, ha, hb, hc, -⟩ := h
  have hgood := firstBadWord_eq_none_iff.mpr hwords
  have hregs := checkRegisters_eq_none_iff.mpr ⟨inRange64_iff.mpr ha, inRange64_iff.mpr hb, inRange64_iff.mpr hc⟩
  simp [launchCheck, not_lt.mpr hfits, hgood, hregs]

/-! ## The host's turn -/

theorem step_of_launch {s : State} {l : Launch} {rest : List Launch} (hr : AtRest s) (hl : s.launches = l :: rest) :
    step s = if configValid l.cfg then .next (({ s with launches := rest } : State).runStart l)
      else .refused .configOutsideParameters := by
  rw [step_of_atRest hr, hostTurn, hl]

/-- Settles O37: the host's turn, by the configuration; and a running step keeps the run starts to come. -/
theorem restMakesNextRunStart : Obligations.RestMakesNextRunStart := by
  intro s l rest hl
  refine ⟨fun hr hv => ?_, fun hr hv => ?_, fun hr t hs => ?_⟩
  · rw [step_of_launch hr hl, if_pos hv]
  · rw [step_of_launch hr hl, if_neg (by simp [hv])]
  · obtain ⟨-, -, hlaunches⟩ := running_step_keeps_store hr hs
    rw [hlaunches, hl]

end Sys2Proof.Machine
end

section
/-! PROOFS. Runs under fuel (spec/40_sequencer.md sections 4 and 6): how a run can look after some fuel, what an ended run
owes the host, and the run of a valid launch. -/

namespace Sys2Proof.Machine

/-! ## The result owed to the host -/

/-- A produced STATUS gives a REASON exactly when STATE = DONE (spec/10_state.md R32, R33). -/
theorem reason_of_produced {w : Status} (h : statusProduced w = true) :
    (statusState w ≠ 2 ∧ statusReason w = 0) ∨
    (statusState w = 2 ∧ (statusReason w = 1 ∨ statusReason w = 2 ∨ statusReason w = 3 ∨ statusReason w = 4)) := by
  revert w
  decide

/-- Settles O41, by the REASON that a produced STATUS gives. -/
theorem resultOwedToHost : Obligations.ResultOwedToHost := by
  intro s h
  obtain ⟨hst, -⟩ := h
  obtain ⟨hstate, hreason⟩ | ⟨hstate, hreason | hreason | hreason | hreason⟩ := reason_of_produced hst
  · simpa [hostResult, hreason] using hstate
  all_goals simp [GoodEnd, hostResult, hstate, hreason]

/-! ## Every run under fuel -/

theorem runFuel_of_fault (n : Nat) {s : State} {f : Fault} (h : statusState s.status ≠ 2) (hs : step s = .fault f) :
    runFuel (n + 1) s = .faulted f := by
  simp [runFuel, Bool.eq_false_iff.mpr (mt State.isDone_iff.mp h), hs]

theorem runFuel_of_refused (n : Nat) {s : State} {r : Refusal} (h : statusState s.status ≠ 2)
    (hs : step s = .refused r) : runFuel (n + 1) s = .refused r := by
  simp [runFuel, Bool.eq_false_iff.mpr (mt State.isDone_iff.mp h), hs]

/-- How a run can look after some fuel, if `P` holds of every state it comes through. -/
inductive RunsThrough (P : State → Prop) : RunEnd → Prop
  | ended {t : State} (ht : P t) (hdone : statusState t.status = 2) : RunsThrough P (.ended t)
  | noEnd {t : State} (ht : P t) (hdone : statusState t.status ≠ 2) : RunsThrough P (.noEnd t)
  | faulted {t : State} {f : Fault} (ht : P t) (hdone : statusState t.status ≠ 2) (hs : step t = .fault f) :
      RunsThrough P (.faulted f)
  | refused {t : State} {r : Refusal} (ht : P t) (hdone : statusState t.status ≠ 2) (hs : step t = .refused r) :
      RunsThrough P (.refused r)

/-- The induction over a run: what every step of an unfinished run keeps, holds all through it. -/
theorem runFuel_runsThrough {P : State → Prop}
    (hkeeps : ∀ s t, P s → statusState s.status ≠ 2 → step s = .next t → P t) (n : Nat) {s : State} (h : P s) :
    RunsThrough P (runFuel n s) := by
  induction n generalizing s with
  | zero =>
    by_cases hdone : statusState s.status = 2
    · exact runFuel_of_done 0 hdone ▸ .ended h hdone
    · exact runFuel_zero hdone ▸ .noEnd h hdone
  | succ n ih =>
    by_cases hdone : statusState s.status = 2
    · exact runFuel_of_done (n + 1) hdone ▸ .ended h hdone
    · cases hs : step s with
      | next t => exact runFuel_succ n hdone hs ▸ ih (hkeeps s t h hdone hs)
      | fault f => exact runFuel_of_fault n hdone hs ▸ .faulted h hdone hs
      | refused r => exact runFuel_of_refused n hdone hs ▸ .refused h hdone hs

/-- An end is an end under more fuel: each step of the shorter run is one of the longer. -/
theorem runFuel_add_of_ended {n : Nat} {s t : State} (h : runFuel n s = .ended t) (m : Nat) :
    runFuel (n + m) s = .ended t := by
  induction n generalizing s with
  | zero =>
    by_cases hdone : statusState s.status = 2
    · rwa [runFuel_of_done _ hdone] at h ⊢
    · simp [runFuel_zero hdone] at h
  | succ n ih =>
    by_cases hdone : statusState s.status = 2
    · rwa [runFuel_of_done _ hdone] at h ⊢
    · cases hs : step s with
      | next u =>
        rw [runFuel_succ n hdone hs] at h
        rw [Nat.succ_add, runFuel_succ (n + m) hdone hs, ih h]
      | fault f => simp [runFuel_of_fault n hdone hs] at h
      | refused r => simp [runFuel_of_refused n hdone hs] at h

/-- Settles O50: the STATE of the last state, and that an end stays. -/
theorem fuelIsNoEnd : Obligations.FuelIsNoEnd := by
  intro n s t
  have hrun : RunsThrough (fun _ => True) (runFuel n s) := runFuel_runsThrough (fun _ _ _ _ _ => trivial) n trivial
  refine ⟨fun h => ⟨?_, runFuel_add_of_ended h⟩, fun h => ?_⟩
  · rw [h] at hrun
    cases hrun with
    | ended _ hdone => exact hdone
  · rw [h] at hrun
    cases hrun with
    | noEnd _ hdone => exact hdone

/-! ## The run of a valid launch -/

/-- From power-on reset, the first step makes an accepted run start (spec/40_sequencer.md R94). -/
theorem runLaunch_of_launchCheck {l : Launch} (hc : launchCheck l = none) (hv : configValid l.cfg = true) (n : Nat) :
    runLaunch l n = runFuel n (State.reset.loadLaunch l) := by
  have hr : AtRest (State.reset.withLaunch l) := ⟨.inl rfl, show statusLegal State.reset.status = true by decide⟩
  have hload : ({ State.reset.withLaunch l with launches := [] } : State).runStart l = State.reset.loadLaunch l := by
    rw [State.runStart, hc]
    rfl
  have hs : step (State.reset.withLaunch l) = .next (State.reset.loadLaunch l) := by
    rw [step_of_launch hr rfl, if_pos hv, hload]
  exact runFuel_succ n (show statusState State.reset.status ≠ 2 by decide) hs

/-- A state of the run of `l`: it meets the invariant, under the launch's configuration, and its run was started and not
refused. -/
structure InRunOf (l : Launch) (s : State) : Prop where
  inv : s.Inv
  cfg : s.cfg = l.cfg
  started : statusState s.status ≠ 0
  accepted : statusReason s.status ≠ 4

theorem InRunOf.running {l : Launch} {s : State} (h : InRunOf l s) (hdone : statusState s.status ≠ 2) : Running s := by
  obtain ⟨hst, -⟩ := h.inv
  obtain hr | ⟨hidle | hend, -⟩ := running_or_atRest (statusLegal_of_produced hst)
  · exact hr
  · exact absurd hidle h.started
  · exact absurd hend hdone

theorem inRunOf_loadLaunch {l : Launch} (hc : launchCheck l = none) (hv : configValid l.cfg = true) (s : State) :
    InRunOf l (s.loadLaunch l) :=
  ⟨inv_loadLaunch s hv hc, rfl, by simp, by simp⟩

theorem InRunOf.step {l : Launch} {s t : State} (h : InRunOf l s) (hdone : statusState s.status ≠ 2)
    (hs : step s = .next t) : InRunOf l t := by
  have hr := h.running hdone
  obtain ⟨-, hcfg, -⟩ := running_step_keeps_store hr hs
  have hstatus : statusState t.status ≠ 0 ∧ statusReason t.status ≠ 4 := by
    obtain ⟨r, e⟩ | ⟨f, e⟩ | e := status_of_running_step hr hs <;> rw [e]
    · cases r <;> decide
    · cases f <;> decide
    · exact ⟨h.started, h.accepted⟩
  exact ⟨running_step_keeps_inv h.inv hr hs, hcfg.trans h.cfg, hstatus.1, hstatus.2⟩

/-- The table of ends (spec/40_sequencer.md R90): what the invariant says of OUT, by REASON. -/
theorem InRunOf.end_tabled {l : Launch} {s : State} (h : InRunOf l s) (hdone : statusState s.status = 2) :
    (statusReason s.status = 1 ∧ (l.cfg.outHalts = true → s.out = [])) ∨
    (statusReason s.status = 2 ∧ l.cfg.outHalts = true ∧ s.out.length = 1) ∨
    statusReason s.status = 3 := by
  obtain ⟨hst, -, -, -, -, -, hout, -⟩ := h.inv
  rw [OutByStatus, h.cfg] at hout
  obtain ⟨hne, -⟩ | ⟨-, hreason | hreason | hreason | hreason⟩ := reason_of_produced hst
  · exact absurd hdone hne
  · exact .inl ⟨hreason, by simpa [hreason] using hout⟩
  · exact .inr (.inl ⟨hreason, by simpa [hreason] using hout⟩)
  · exact .inr (.inr hreason)
  · exact absurd hreason h.accepted

/-- Settles O51: every state of the run is `InRunOf` its launch, so the model never stops and the end is tabled. -/
theorem runEndsAsTabled : Obligations.RunEndsAsTabled := by
  intro l n hl hv
  have hc := launchCheck_of_validLaunch hl
  have hrun : RunsThrough (InRunOf l) (runLaunch l n) := by
    rw [runLaunch_of_launchCheck hc hv]
    exact runFuel_runsThrough (fun _ _ => InRunOf.step) n (inRunOf_loadLaunch hc hv _)
  generalize runLaunch l n = e at hrun ⊢
  cases hrun with
  | noEnd => exact .inl ⟨_, rfl⟩
  | ended ht hdone => exact .inr ⟨_, rfl, ht.inv, ht.cfg, ht.end_tabled hdone⟩
  | faulted ht hdone hs | refused ht hdone hs =>
    obtain ⟨u, hu⟩ := running_step_answers (ht.running hdone)
    simp [hu] at hs

/-- A start value in range is held as it is (spec/10_state.md R25). -/
theorem toInt_ofInt_of_inRange64 {n : Int} (h : -(2 ^ 63) ≤ n ∧ n ≤ 2 ^ 63 - 1) : (BitVec.ofInt 64 n).toInt = n :=
  BitVec.toInt_ofInt_eq_self (by decide) h.1 (by omega)

/-- Settles O52: the run start loads, and at pc 0 the bounds check of at most one word fails. -/
theorem shortProgramsHaltAtOnce : Obligations.ShortProgramsHaltAtOnce := by
  intro l hl hv hshort
  have hc := launchCheck_of_validLaunch hl
  obtain ⟨-, -, ha, hb, hcr, -⟩ := hl
  have hs := step_of_outside (running_of_status (State.loadLaunch_status State.reset l)) (by simpa using hshort)
  refine ⟨(State.reset.loadLaunch l).clearJt.halt .haltBounds, ?_, rfl, rfl, rfl, toInt_ofInt_of_inRange64 ha,
    toInt_ofInt_of_inRange64 hb, toInt_ofInt_of_inRange64 hcr⟩
  rw [runLaunch_of_launchCheck hc hv, runFuel_succ 0 (by simp) hs, runFuel_of_done 0 (by simp)]

end Sys2Proof.Machine
end

section
/-! PROOFS. The six ALU instructions (spec/41_alu.md): the shared shift-division of adv, bdv and cdv for any destination,
its corner counts, and the bit operations of bxl, bst and bxc on words. -/

namespace Sys2Proof.Machine

/-! ## The shift-division, for every destination -/

/-- A negative count raises NegativeShift and changes nothing else (spec/60_exceptions.md R162). -/
theorem divideInto_of_neg {o : ComboOperand} {s : State} {k : Word} (dest : Reg) (hk : combo o s = some k)
    (hneg : k.toInt < 0) : divideInto dest o s = .next (s.raiseFault .negativeShift) := by
  rw [divideInto, hk]
  exact if_pos hneg

/-- Any other count writes the shifted A to the destination and advances by 2 (R111, R123, R126). -/
theorem divideInto_of_nonneg {o : ComboOperand} {s : State} {k : Word} (dest : Reg) (hk : combo o s = some k)
    (hpos : 0 ≤ k.toInt) (hjt : s.jt = false) :
    divideInto dest o s = .next ((s.writeReg dest (shiftDiv s.a k)).setPc (s.pc + 2)) := by
  rw [divideInto, hk]
  refine (if_neg hpos.not_gt).trans ?_
  rw [State.retire_of_jt_false (by simpa using hjt), State.readReg_a, State.writeReg_pc]

/-- The value written is the floor quotient by the power of two, computed as an arithmetic shift (R110). -/
theorem divideInto_floordiv {o : ComboOperand} {s : State} {k : Word} (dest : Reg) (hk : combo o s = some k)
    (hpos : 0 ≤ k.toInt) (hjt : s.jt = false) :
    ∃ q : Word, q.toInt = floordiv s.a.toInt (2 ^ k.toNat) ∧ q = asr s.a (min k.toNat 63) ∧
      divideInto dest o s = .next ((s.writeReg dest q).setPc (s.pc + 2)) :=
  ⟨shiftDiv s.a k, asr_min_toInt s.a k.toNat, rfl, divideInto_of_nonneg dest hk hpos hjt⟩

theorem asr_63_toInt (a : Word) : (asr a 63).toInt = if 0 ≤ a.toInt then 0 else -1 := by
  rw [asr_toInt, floordiv_two_pow_of_63_le a le_rfl]

/-- Settles O7: counts of 63 and more are one shift, by 63 places. -/
theorem shiftIsFloorDivision : Obligations.ShiftIsFloorDivision :=
  ⟨fun a k => ⟨(asr_min_toInt a k).symm, fun hk => ⟨by rw [min_eq_right hk], asr_63_toInt a⟩⟩, fun _ _ _ => rfl⟩

/-- Settles O8: the shared shift-division with destination A. -/
theorem advResult : Obligations.AdvResult :=
  fun _ _ => ⟨rfl, fun hv => by rw [hv]; rfl, fun _ => divideInto_of_neg .a, fun _ => divideInto_floordiv .a⟩

/-- Settles O9: the shared shift-division with destination B. -/
theorem bdvResult : Obligations.BdvResult :=
  fun _ _ => ⟨rfl, fun hv => by rw [hv]; rfl, fun _ => divideInto_of_neg .b, fun _ => divideInto_floordiv .b⟩

/-- Settles O10: the shared shift-division with destination C. -/
theorem cdvResult : Obligations.CdvResult :=
  fun _ _ => ⟨rfl, fun hv => by rw [hv]; rfl, fun _ => divideInto_of_neg .c, fun _ => divideInto_floordiv .c⟩

/-! ## Corner counts -/

theorem shiftDiv_zero (a : Word) : shiftDiv a 0 = a := BitVec.sshiftRight_zero

/-- A = -1 is kept by every shift (R113). -/
theorem shiftDiv_of_toInt_neg_one {a : Word} (ha : a.toInt = -1) (k : Word) : shiftDiv a k = a := by
  have hpow : (0 : Int) < 2 ^ k.toNat := by positivity
  apply BitVec.eq_of_toInt_eq
  rw [shiftDiv, asr_min_toInt, floordiv_of_pos _ hpow, ha]
  exact Int.ediv_eq_neg_one_of_neg_of_le (by decide) hpow

theorem shiftDiv_eq_zero {a k : Word} (ha : 0 ≤ a.toInt) (hk : 63 ≤ k.toInt) : shiftDiv a k = 0 := by
  have hcount : 63 ≤ k.toNat := by
    have hcond := BitVec.toInt_eq_toNat_cond k
    split at hcond <;> omega
  apply BitVec.eq_of_toInt_eq
  rw [shiftDiv, min_eq_right hcount, asr_63_toInt, if_pos ha]
  rfl

/-- Settles O53: each clause is the shared shift-division at one operand, with the value that its count gives. -/
theorem shiftCornerCases : Obligations.ShiftCornerCases := by
  intro s hjt
  have quotient : ∀ (dest r : Reg), 0 ≤ (s.readReg r).toInt →
      divideInto dest (.register r) s =
        .next ((s.writeReg dest (shiftDiv s.a (s.readReg r))).setPc (s.pc + 2)) :=
    fun dest r hr => divideInto_of_nonneg dest rfl hr hjt
  have copy : ∀ dest, divideInto dest (.literal 0) s = .next ((s.writeReg dest s.a).setPc (s.pc + 2)) := by
    intro dest
    rw [divideInto_of_nonneg (k := 0) dest rfl le_rfl hjt, shiftDiv_zero]
  refine ⟨copy .a, copy .b, ?oldB, ?oldC, ?minusOne, ?large, ?negative⟩
  case oldB => exact fun hb => ⟨_, asr_min_toInt s.a s.b.toNat, quotient .b .b hb⟩
  case oldC => exact fun hc => ⟨_, asr_min_toInt s.a s.c.toNat, quotient .c .c hc⟩
  case minusOne =>
    intro ha hc
    refine (quotient .a .c hc).trans ?_
    rw [shiftDiv_of_toInt_neg_one ha]
    rfl
  case large =>
    intro ha
    have hpos : 0 ≤ s.a.toInt := by omega
    refine (quotient .a .a hpos).trans ?_
    rw [State.readReg_a, shiftDiv_eq_zero hpos ha]
    rfl
  case negative => exact fun ha => divideInto_of_neg (o := .register .a) (s := s) .a rfl ha

/-! ## XOR and the low three bits -/

theorem zext64_getLsbD (v : ProgWord) (j : Nat) : (zext64 v).getLsbD j = v.getLsbD j := by
  rw [zext64, BitVec.getLsbD_setWidth]
  by_cases hj : j < 64
  · simp [hj]
  · rw [BitVec.getLsbD_of_ge v j (by omega), Bool.and_false]

/-- A literal has a clear sign bit, so XOR with it keeps the sign (R115). -/
theorem xor_zext64_toInt_neg_iff (b : Word) (v : ProgWord) : (b ^^^ zext64 v).toInt < 0 ↔ b.toInt < 0 := by
  have hmsb : (zext64 v).msb = false := by
    rw [BitVec.msb_eq_getLsbD_last, zext64_getLsbD]
    exact BitVec.getLsbD_of_ge v 63 (by decide)
  have hsign : (b ^^^ zext64 v).msb = b.msb := by rw [BitVec.msb_xor, hmsb, Bool.xor_false]
  rwa [BitVec.msb_eq_toInt, BitVec.msb_eq_toInt, decide_eq_decide] at hsign

/-- The end of bxl, bst and bxc: B is written and the pc advances by 2. -/
theorem retire_writeReg_b {s : State} (hjt : s.jt = false) (w : Word) :
    (s.writeReg .b w).retire = { s with b := w, pc := s.pc + 2 } :=
  State.retire_of_jt_false hjt

theorem exec_bxl (v : ProgWord) {s : State} (hjt : s.jt = false) :
    exec (.bxl v) s = .next { s with b := s.b ^^^ zext64 v, pc := s.pc + 2 } :=
  congrArg Host.Outcome.next (retire_writeReg_b hjt _)

/-- Settles O11: B is XORed with the literal, whose bits 3 and above are clear. -/
theorem bxlResult : Obligations.BxlResult := by
  refine fun v s => ⟨rfl, fun hjt =>
    ⟨s.b ^^^ zext64 v, ?bits, ?high, xor_zext64_toInt_neg_iff s.b v, exec_bxl v hjt⟩⟩
  case bits => exact fun j => by rw [BitVec.getLsbD_xor, zext64_getLsbD]
  case high =>
    intro j hj
    rw [BitVec.getLsbD_xor, zext64_getLsbD, BitVec.getLsbD_of_ge v j hj, Bool.xor_false]

theorem exec_bst_of_combo {o : ComboOperand} {s : State} {k : Word} (hk : combo o s = some k) (hjt : s.jt = false) :
    exec (.bst o) s = .next { s with b := zext64 (low3 k), pc := s.pc + 2 } := by
  simp only [exec, execBst, hk, retire_writeReg_b hjt]

/-- Settles O12: the low three bits of the resolved value are its remainder mod 8. -/
theorem bstResult : Obligations.BstResult := by
  refine fun v s => ⟨rfl, fun hv => by rw [hv]; rfl, fun k hk hjt => ?_⟩
  have hval : (zext64 (low3 k)).toInt = mod8 k.toInt := (zext64_toInt _).trans (low3_toNat k)
  obtain ⟨hlow, hhigh⟩ := mod8_range k.toInt
  exact ⟨zext64 (low3 k), hval, hval ▸ hlow, hval ▸ hhigh, exec_bst_of_combo hk hjt⟩

/-- Settles O13: the operand word is ignored, and B is XORed with C bit by bit. -/
theorem bxcResult : Obligations.BxcResult :=
  fun _ s => ⟨rfl, rfl, fun hjt => ⟨s.b ^^^ s.c, fun _ => BitVec.getLsbD_xor,
    congrArg Host.Outcome.next (retire_writeReg_b hjt _)⟩⟩

/-- Settles O54: XOR with the same literal twice cancels. -/
theorem bxlTwiceRestoresB : Obligations.BxlTwiceRestoresB := by
  intro v s hjt
  refine ⟨_, exec_bxl v hjt, ?_⟩
  rw [exec_bxl v (by exact hjt), BitVec.xor_assoc, BitVec.xor_self, BitVec.xor_zero]

end Sys2Proof.Machine
end

section
/-! PROOFS. The jump (spec/42_control.md): the two outcomes of jnz, the step at a taken jump, and runs in which no jump is
taken, because A is 0 and no instruction changes that. -/

namespace Sys2Proof.Machine

/-! ## The execute stage of jnz -/

/-- Not taken: the normal advance (R140). -/
theorem exec_jnz_of_zero (v : ProgWord) {s : State} (ha : s.a = 0) (hjt : s.jt = false) :
    exec (.jnz v) s = .next (s.setPc (s.pc + 2)) := by
  rw [exec, execJnz_eq, if_pos ha, State.retire_of_jt_false hjt]

/-- Taken: the pc is the literal, with no advance (R140, R141). -/
theorem exec_jnz_of_ne_zero (v : ProgWord) {s : State} (ha : s.a ≠ 0) (hjt : s.jt = false) :
    exec (.jnz v) s = .next (s.setPc (zext64 v)) := by
  rw [exec, execJnz_eq, if_neg ha, State.jump_eq hjt]

/-- The condition of jnz, on the integer that A stands for. -/
theorem word_toInt_eq_zero_iff {a : Word} : a.toInt = 0 ↔ a = 0 :=
  BitVec.toInt_inj (y := 0)

/-- Settles O14: the two outcomes, with the literal zero-extended. -/
theorem jnzResult : Obligations.JnzResult := by
  refine fun v s => ⟨rfl, fun ha hjt => ?taken, fun ha hjt => ?notTaken⟩
  case taken =>
    rw [BitVec.ofNat_toNat]
    exact exec_jnz_of_ne_zero v (mt word_toInt_eq_zero_iff.mpr ha) hjt
  case notTaken => exact exec_jnz_of_zero v (word_toInt_eq_zero_iff.mp ha) hjt

/-- Settles O17: taken or not, jnz sets the pc and retires. -/
theorem jnzFrame : Obligations.JnzFrame := by
  intro v s t h
  cases executes_of_exec h with
  | faults hf => cases hf
  | writes _ _ hd => cases hd
  | haltsOut _ _ hi | emits _ _ hi => cases hi
  | fallsThrough | jumps =>
    exact ⟨fun r => by cases r <;> simp, by simp, by simp, by simp [State.progLen], State.memRead_congr (by simp),
      by simp, by simp, by simp, by simp⟩

/-! ## The step at a taken jump -/

theorem running_congr {s t : State} (h : t.status = s.status) : Running t ↔ Running s := by
  rw [Running, h]

theorem step_of_taken_jump {s : State} {v : ProgWord} (hr : Running s) (h0 : s.prog[s.pc.toNat]? = some 3)
    (h1 : s.prog[s.pc.toNat + 1]? = some v) (ha : s.a ≠ 0) :
    step s = .next ((s.fetched 3 v).setPc (zext64 v)) := by
  rw [step_of_words hr h0 h1]
  exact exec_jnz_of_ne_zero v (by simpa using ha) (by simp)

/-- Settles O31: the target is outside the program, so the next bounds check fails there. -/
theorem jumpPastEndHalts : Obligations.JumpPastEndHalts := by
  intro s v hr h0 h1 ha hpast
  have hout : s.progLen ≤ (zext64 v).toNat + 1 := by rwa [zext64_toNat]
  have hend := step_of_outside (s := (s.fetched 3 v).setPc (zext64 v)) ((running_congr (by simp)).mpr hr)
    (by simpa using hout)
  exact ⟨_, _, step_of_taken_jump hr h0 h1 ha, zext64_toNat v, hend, rfl, rfl⟩

/-- A taken jump to its own index answers the state that it executes in (R142). -/
theorem step_of_self_jump {s : State} {v : ProgWord} (hr : Running s) (h0 : s.prog[s.pc.toNat]? = some 3)
    (h1 : s.prog[s.pc.toNat + 1]? = some v) (hself : s.pc.toNat = v.toNat) (ha : s.a ≠ 0) :
    step s = .next (s.fetched 3 v) := by
  have hpc : zext64 v = (s.fetched 3 v).pc := BitVec.eq_of_toNat_eq (by rw [zext64_toNat, State.fetched_pc, hself])
  rw [step_of_taken_jump hr h0 h1 ha, hpc]
  rfl

/-- Settles O48: by induction on the fuel, the state after a self-jump is again at it. -/
theorem selfJumpNeverEnds : Obligations.SelfJumpNeverEnds := by
  intro s v n hr h0 h1 hself ha
  have hrunning : statusState s.status ≠ 2 := by rw [hr.1]; decide
  induction n generalizing s with
  | zero => exact ⟨s, runFuel_zero hrunning, rfl, rfl, rfl, rfl, rfl, rfl⟩
  | succ n ih =>
    rw [runFuel_succ n hrunning (step_of_self_jump hr h0 h1 hself ha)]
    simpa using ih (s.fetched 3 v) ((running_congr (by simp)).mpr hr) (by simpa using h0) (by simpa using h1)
      (by simpa using hself) (by simpa using ha) (by simpa using hrunning)

/-! ## Runs with A = 0 -/

theorem zero_shiftDiv (k : Word) : shiftDiv 0 k = 0 := BitVec.zero_sshiftRight

/-- Only adv writes A (spec/10_state.md R24). -/
theorem eq_adv_of_destination {i : Instr} (h : destination i = some .a) : ∃ o, i = .adv o := by
  cases i with
  | adv o => exact ⟨o, rfl⟩
  | bxl | bst | bxc | bdv | cdv | jnz | out => cases h

/-- adv shifts 0 to 0 (spec/41_alu.md R111). -/
theorem execAdv_keeps_zero_a {o : ComboOperand} {s t : State} (ha : s.a = 0) (h : execAdv o s = .next t) : t.a = 0 := by
  rw [execAdv] at h
  obtain ⟨-, e⟩ | ⟨k, -, -, e⟩ | ⟨k, -, -, e⟩ := divideInto_cases .a o s <;> rw [e] at h <;> cases h
  · exact ha
  · exact ha
  · rw [State.retire_a, State.writeReg_a_a, ha, zero_shiftDiv]

theorem exec_keeps_zero_a {i : Instr} {s t : State} (ha : s.a = 0) (h : exec i s = .next t) : t.a = 0 := by
  cases executes_of_exec h with
  | @writes r w _ hd =>
    cases r with
    | a =>
      obtain ⟨o, rfl⟩ := eq_adv_of_destination hd
      exact execAdv_keeps_zero_a ha h
    | b | c => simpa using ha
  | faults | fallsThrough | jumps | haltsOut | emits => simpa using ha

theorem running_step_keeps_zero_a {s t : State} (hr : Running s) (ha : s.a = 0) (hs : step s = .next t) : t.a = 0 := by
  obtain ⟨-, rfl⟩ | ⟨op, v, -, -, he⟩ := running_step_cases hr hs
  · exact ha
  · exact exec_keeps_zero_a (by simpa using ha) he

/-- STATUS changes in a run only at its end (spec/10_state.md R33). -/
theorem status_of_unended_step {s t : State} (hr : Running s) (hs : step s = .next t)
    (hdone : statusState t.status ≠ 2) : t.status = s.status := by
  obtain ⟨h, e⟩ | ⟨f, e⟩ | e := status_of_running_step hr hs
  · exact absurd (e ▸ statusState_halted h) hdone
  · exact absurd (e ▸ statusState_fault f) hdone
  · exact e

/-- With A = 0, a running step that does not end the run advances by 2: its pair is in bounds and is no taken jump. -/
theorem running_step_advances_of_zero_a {s t : State} (hr : Running s) (ha : s.a = 0) (hs : step s = .next t)
    (hdone : statusState t.status ≠ 2) : s.inBounds = true ∧ t.pc = s.pc + 2 := by
  obtain ⟨-, rfl⟩ | ⟨op, v, h0, h1, -⟩ := running_step_cases hr hs
  · exact absurd (statusState_halted .haltBounds) hdone
  · have hpc := pcWriters s t op v hr h0 h1 hs
    rw [if_neg hdone, if_neg fun h => h.2 ha] at hpc
    exact ⟨(State.fetch_of_words h0 h1).1, hpc⟩

/-- Settles O57: the invariant and A = 0 are kept, and the advance does not wrap. -/
theorem zeroAStepAdvances : Obligations.ZeroAStepAdvances := by
  intro s t hinv hr ha hs
  refine ⟨stepKeepsInvariant s t hinv hs, running_step_keeps_zero_a hr ha hs, or_iff_not_imp_left.mpr fun hdone => ?_⟩
  obtain ⟨hb, hpc⟩ := running_step_advances_of_zero_a hr ha hs hdone
  obtain ⟨hlast, hexact, -⟩ := advanceNeverWraps s hinv hb
  exact ⟨status_of_unended_step hr hs hdone, by rw [hpc, hexact], by rwa [hpc, hexact]⟩

/-- The same step as progress: it answers, and ends the run or leaves two words fewer after the pc. -/
theorem running_step_progresses_of_zero_a {s : State} (hinv : s.Inv) (hr : Running s) (ha : s.a = 0) :
    ∃ t, step s = .next t ∧ t.Inv ∧ t.a = 0 ∧
      (statusState t.status = 2 ∨
        (Running t ∧ t.progLen = s.progLen ∧ t.pc.toNat = s.pc.toNat + 2 ∧ t.pc.toNat ≤ s.progLen)) := by
  obtain ⟨t, hs⟩ := running_step_answers hr
  obtain ⟨htinv, hta, hend⟩ := zeroAStepAdvances s t hinv hr ha hs
  obtain ⟨hprog, -⟩ := running_step_keeps_store hr hs
  exact ⟨t, hs, htinv, hta, hend.imp_right fun ⟨hst, hpc, hle⟩ =>
    ⟨(running_congr hst).mpr hr, congrArg List.length hprog, hpc, hle⟩⟩

/-- One step for each word that is left after the pc, and one more, are fuel enough. -/
theorem runFuel_ends_of_zero_a (n : Nat) {s : State} (hinv : s.Inv) (hr : Running s) (ha : s.a = 0)
    (hn : s.progLen ≤ s.pc.toNat + n) : ∃ t, runFuel (n + 1) s = .ended t ∧ t.a = 0 := by
  have hrunning : statusState s.status ≠ 2 := by rw [hr.1]; decide
  obtain ⟨t, hs, htinv, hta, hdone | ⟨htr, hlen, hpc, hle⟩⟩ := running_step_progresses_of_zero_a hinv hr ha
  · exact ⟨t, by rw [runFuel_succ n hrunning hs, runFuel_of_done n hdone], hta⟩
  · rw [runFuel_succ n hrunning hs]
    cases n with
    | zero => omega
    | succ n => exact runFuel_ends_of_zero_a n htinv htr hta (by omega)

/-- Settles O49: from any pc, N words and one step are fuel enough. -/
theorem zeroARunEnds : Obligations.ZeroARunEnds :=
  fun s hinv hr ha => runFuel_ends_of_zero_a s.progLen hinv hr ha (Nat.le_add_left _ _)

end Sys2Proof.Machine
end

section
/-! PROOFS. The output instruction (spec/43_output.md): its outcomes with a resolved operand, and what each of them leaves
unchanged. -/

namespace Sys2Proof.Machine

@[simp] theorem State.emit_readReg (s : State) (e : ProgWord) (r : Reg) : (s.emit e).readReg r = s.readReg r := by
  cases r <;> rfl

@[simp] theorem State.halt_readReg (s : State) (h : HaltReason) (r : Reg) : (s.halt h).readReg r = s.readReg r := by
  cases r <;> rfl

/-- With a resolved operand, out halts under OUT_HALTS, overflows on a full OUT, or goes on (R150, R151). -/
theorem exec_out_of_combo {o : ComboOperand} {s : State} {k : Word} (hk : combo o s = some k) :
    exec (.out o) s =
      if s.cfg.outHalts = true then .next ((s.emit (low3 k)).halt .haltOut)
      else if s.cfg.outDepth = some s.out.length then .next (s.raiseFault .outputOverflow)
      else .next (s.emit (low3 k)).retire := by
  simp only [exec, execOut, hk, State.outFull_iff]

/-- Settles O15: the three outcomes of a resolved operand, whose low three bits are its remainder mod 8. -/
theorem outResult : Obligations.OutResult := by
  refine fun v s => ⟨rfl, fun hv => by rw [hv]; rfl, fun k hk => ⟨low3 k, low3_toNat k, ?halts, ?full, ?goesOn⟩⟩
  case halts => exact fun hh => (exec_out_of_combo hk).trans (if_pos hh)
  case full =>
    intro hh hfull
    exact (exec_out_of_combo hk).trans ((if_neg (by simp [hh])).trans (if_pos hfull))
  case goesOn =>
    intro hh hroom hjt
    refine (exec_out_of_combo hk).trans ((if_neg (by simp [hh])).trans ((if_neg hroom).trans ?_))
    exact congrArg Host.Outcome.next (State.retire_of_jt_false hjt)

/-- Settles O18: out faults, or emits and halts, or emits and retires. -/
theorem outFrame : Obligations.OutFrame := by
  intro o s t h
  cases executes_of_exec h with
  | writes _ _ hd => cases hd
  | fallsThrough hi | jumps hi => cases hi
  | faults hf =>
    exact ⟨fun r => by simp, .inl ⟨rfl, _, hf⟩, .inr (.inr ⟨_, hf, rfl⟩), rfl, fun _ => rfl, rfl, rfl, rfl, .inl rfl⟩
  | haltsOut e _ _ hh =>
    exact ⟨fun r => by simp, .inr ⟨e, rfl⟩, .inr (.inl ⟨hh, rfl, rfl⟩), rfl, fun _ => rfl, rfl, rfl, rfl, .inl rfl⟩
  | emits e =>
    exact ⟨fun r => by simp, .inr ⟨e, by simp⟩, .inl (by simp), by simp [State.progLen], State.memRead_congr (by simp),
      by simp, by simp, by simp, .inr (by simp)⟩

end Sys2Proof.Machine
end

section
/-! PROOFS. The CORE's own faults and refusals (spec/60_exceptions.md): the fault of the table and no other, the record that
the frozen state is, the code of a refused run start, and the machine that waits between runs. -/

namespace Sys2Proof.Machine

/-! ## Faults (spec/60_exceptions.md section 1) -/

/-- With no fault in the table, an instruction leaves a REASON other than FAULT. -/
theorem statusReason_ne_of_executes {i : Instr} {s t : State} (h : Executes i s t) (hnone : faultRaised i s = none)
    (hs : statusReason s.status ≠ 3) : statusReason t.status ≠ 3 := by
  cases h with
  | faults hf => simp [hnone] at hf
  | haltsOut => exact statusReason_statusHalted_ne .haltOut
  | writes | fallsThrough | jumps | emits => simpa using hs

/-- Settles O19: the tabled fault is the one taken, and what completes writes no fault. -/
theorem faultsExactlyAsTabled : Obligations.FaultsExactlyAsTabled := by
  refine ⟨rfl, rfl, rfl, fun i s => ⟨fun f hf => exec_of_faultRaised hf, fun hnone hs => ?_⟩⟩
  obtain ⟨t, ht, hex⟩ := exec_executes i s
  exact ⟨t, ht, statusReason_ne_of_executes hex hnone hs⟩

/-- Settles O24: in bounds the instruction answers, and out of bounds the halt does. -/
theorem runningAlwaysSteps : Obligations.RunningAlwaysSteps :=
  fun _ hr => running_step_answers hr

/-- A running step that sets REASON to FAULT fetched a pair and, after sending its trace record, took a fault. -/
theorem running_step_faults {s t : State} (hr : Running s) (hs : step s = .next t) (hbefore : statusReason s.status ≠ 3)
    (hafter : statusReason t.status = 3) :
    ∃ op v f, s.prog[s.pc.toNat]? = some op ∧ s.prog[s.pc.toNat + 1]? = some v ∧ t = (s.fetched op v).raiseFault f := by
  obtain ⟨-, rfl⟩ | ⟨op, v, h0, h1, he⟩ := running_step_cases hr hs
  · exact absurd hafter (statusReason_statusHalted_ne .haltBounds)
  · cases hfault : faultRaised (decodePair op v) (s.fetched op v) with
    | some f =>
      rw [exec_of_faultRaised hfault] at he
      cases he
      exact ⟨op, v, f, h0, h1, rfl⟩
    | none => exact absurd hafter (statusReason_ne_of_executes (executes_of_exec he) hfault (by simpa using hbefore))

/-- The fault information is read from the pair at the frozen pc (R163). -/
theorem faultInfo_of_words {s : State} {op v : ProgWord} (hstate : statusState s.status = 2)
    (hreason : statusReason s.status = 3) (h0 : s.prog[s.pc.toNat]? = some op) (h1 : s.prog[s.pc.toNat + 1]? = some v) :
    faultInfo s = some
      { pc := s.pc
        op := op
        operand := v
        k := if statusCode s.status = 2 then combo (ComboOperand.ofWord v) s else none } := by
  obtain ⟨-, hfetch⟩ := State.fetch_of_words h0 h1
  simp [faultInfo, hstate, hreason, hfetch]

/-- Settles O20: a fault leaves the fetched state, which differs from the state before in the trace and the flag only. -/
theorem faultRecordIsFrozenState : Obligations.FaultRecordIsFrozenState := by
  intro s t hr hs hbefore hafter
  obtain ⟨op, v, f, h0, h1, rfl⟩ := running_step_faults hr hs hbefore hafter
  have hinfo := faultInfo_of_words (s := (s.fetched op v).raiseFault f) (statusState_fault f) hafter
    (by simpa using h0) (by simpa using h1)
  have hcombo : combo (ComboOperand.ofWord v) ((s.fetched op v).raiseFault f) = combo (ComboOperand.ofWord v) s :=
    combo_congr _ (by simp) (by simp) (by simp)
  refine ⟨by simp, by simp, by simp, by simp, by simp, by simp, op, v, _, h0, h1, ?info, rfl, fun hon => ?trace⟩
  case info => simpa [hcombo] using hinfo
  case trace => simp [hon, State.traceRecord]

/-! ## Refusals (spec/60_exceptions.md sections 2 and 3) -/

/-- A launch that breaks a load condition is refused, with the code of the first condition broken (R166, R167). -/
theorem launchCheck_of_broken {l : Launch}
    (h : ¬ (l.program.length ≤ l.cfg.progMax ∧ (∀ n ∈ l.program, 0 ≤ n ∧ n ≤ 7) ∧
      ∀ n ∈ [l.a0, l.b0, l.c0], -(2 ^ 63) ≤ n ∧ n ≤ 2 ^ 63 - 1)) :
    ∃ r, launchCheck l = some r ∧ r.code =
      if l.cfg.progMax < l.program.length then 3 else if ∃ n ∈ l.program, ¬ (0 ≤ n ∧ n ≤ 7) then 1 else 2 := by
  obtain ⟨hlong, e⟩ | ⟨i, hfits, hbad, e⟩ | ⟨hfits, hgood, e⟩ := launchCheck_cases l
  · exact ⟨_, e, (if_pos hlong).symm⟩
  · obtain ⟨⟨n, hn, hout⟩, -⟩ := firstBadWord_eq_some_iff.mp hbad
    have hword : ∃ n ∈ l.program, ¬ (0 ≤ n ∧ n ≤ 7) := ⟨n, List.mem_of_getElem? hn, hout⟩
    exact ⟨_, e, by rw [if_neg (not_lt.mpr hfits), if_pos hword]; rfl⟩
  · have hwords := firstBadWord_eq_none_iff.mp hgood
    have hno : ¬ ∃ n ∈ l.program, ¬ (0 ≤ n ∧ n ≤ 7) := fun ⟨n, hn, hout⟩ => hout (hwords n hn)
    rw [if_neg (not_lt.mpr hfits), if_neg hno, e]
    cases hregs : checkRegisters l with
    | none => exact absurd ⟨hfits, hwords, by simpa [inRange64_iff] using checkRegisters_eq_none_iff.mp hregs⟩ h
    | some r =>
      obtain ⟨rfl, -⟩ | ⟨rfl, -⟩ | ⟨rfl, -⟩ := checkRegisters_eq_some_iff.mp hregs <;> exact ⟨_, rfl, rfl⟩

/-- After a refusal the machine is at rest (spec/10_state.md R37). -/
theorem atRest_refuseLaunch (r : LaunchRefusal) (s : State) : AtRest (s.refuseLaunch r) :=
  ⟨.inr (statusState_refused r), statusLegal_of_produced (statusProduced_refused r)⟩

/-- Settles O36: the run start is refused, and then the host's reads of a register and of the pc are those of O40. -/
theorem runStartRefusals : Obligations.RunStartRefusals := by
  intro s l hbroken
  obtain ⟨r, hcheck, hcode⟩ := launchCheck_of_broken hbroken
  have hrefused : s.runStart l = s.refuseLaunch r := by rw [State.runStart, hcheck]
  have hreads (reg : Reg) :=
    (hostReads reg (s.refuseLaunch r)).1 (atRest_refuseLaunch r s) (.inr (statusReason_refused r))
  rw [hrefused, ← hcode]
  exact ⟨rfl, fun reg => ⟨_, (hreads reg).1⟩, ⟨_, (hreads .a).2⟩, rfl⟩

/-! ## Waiting between runs (R176) -/

theorem step_of_no_launch {s : State} (hr : AtRest s) (hnil : s.launches = []) : step s = .next s := by
  rw [step_of_atRest hr, hostTurn, hnil]

/-- A machine whose step keeps its state, and that has not ended, reaches no end under any fuel. -/
theorem runFuel_of_step_self (n : Nat) {s : State} (hdone : statusState s.status ≠ 2) (hs : step s = .next s) :
    runFuel n s = .noEnd s := by
  induction n with
  | zero => exact runFuel_zero hdone
  | succ n ih => rw [runFuel_succ n hdone hs, ih]

/-- Settles O39: DONE is ended at once, and IDLE steps to itself. -/
theorem restKeepsState : Obligations.RestKeepsState := by
  intro s n hr hnil
  have hs := step_of_no_launch hr hnil
  refine ⟨hs, ?_⟩
  split
  case isTrue hdone => exact runFuel_of_done n hdone
  case isFalse hidle => exact runFuel_of_step_self n hidle hs

end Sys2Proof.Machine
end

section
/-! PROOFS. Power-on reset and the architectural reset that a run start is (spec/70_reset_and_hazards.md section 1), by the
columns of spec/10_state.md R35. -/

namespace Sys2Proof.Machine

/-! ## A loaded program is the given one (spec/70_reset_and_hazards.md R199) -/

/-- A host integer from 0 to 7 is held as it is (spec/30_encoding.md R69). -/
theorem toNat_ofInt_of_word {n : Int} (h : 0 ≤ n ∧ n ≤ 7) : ((BitVec.ofInt 3 n).toNat : Int) = n := by
  obtain ⟨hlow, hhigh⟩ := h
  rw [BitVec.toNat_ofInt]
  omega

theorem map_toNat_map_ofInt_of_words {ns : List Int} (h : ∀ n ∈ ns, 0 ≤ n ∧ n ≤ 7) :
    (ns.map (BitVec.ofInt 3)).map (fun w => (w.toNat : Int)) = ns := by
  rw [List.map_map]
  exact (List.map_congr_left (g := id) fun n hn => toNat_ofInt_of_word (h n hn)).trans (List.map_id ns)

/-- Settles O35: the load checks pass, so the run start is `loadLaunch`, which holds every value in range as it is. -/
theorem validLaunchLoads : Obligations.ValidLaunchLoads := by
  intro s l hl
  have hcheck := launchCheck_of_validLaunch hl
  have hload : s.runStart l = s.loadLaunch l := by rw [State.runStart, hcheck]
  obtain ⟨-, hwords, ha, hb, hc, -⟩ := hl
  rw [hload]
  exact ⟨hcheck, toInt_ofInt_of_inRange64 ha, toInt_ofInt_of_inRange64 hb, toInt_ofInt_of_inRange64 hc, rfl,
    map_toNat_map_ofInt_of_words hwords, rfl, rfl, rfl, rfl⟩

/-! ## Power-on reset (R190) -/

theorem statusState_reset : statusState State.reset.status = 0 := by decide

theorem atRest_reset : AtRest State.reset := ⟨.inl statusState_reset, by decide⟩

/-- Settles O34: the machine is at rest in IDLE, where the host's reads are those of O40 with no value held. -/
theorem powerOnReset : Obligations.PowerOnReset := by
  have hreads (r : Reg) := (hostReads r State.reset).1 atRest_reset (.inl statusState_reset)
  exact ⟨statusState_reset, by decide, by decide, rfl, rfl, rfl, fun r => ⟨_, (hreads r).1⟩, ⟨_, (hreads .a).2⟩, rfl⟩

end Sys2Proof.Machine
end
